-- ==== Sys2Proof/Word.lean ====
section
/-! DEFINITION. The words of the CAT frame engine (CFE): bytes, 32-bit operands and results, the 64-bit command
word, and the two fixed groups of bytes, a 4-byte wire word and the five places of a frame or reply. -/

namespace Sys2Proof

/-- One byte of a frame or a reply: "Frame bytes are 8 bits" (00_scope.md R7). -/
abbrev Byte := BitVec 8

/-- A 32-bit operand or result (00_scope.md R7). -/
abbrev Word32 := BitVec 32

/-- A 16-bit NVM address (00_scope.md R7). -/
abbrev NvmAddr := BitVec 16

/-- The 64-bit command word on the port `cmd_word` (00_scope.md R7, 30_encoding.md R70). -/
abbrev CommandWord := BitVec 64

/-- Four payload bytes `[w0, w1, w2, w3]` in wire order (00_scope.md R9, R11). -/
structure WireWord where
  w0 : Byte
  w1 : Byte
  w2 : Byte
  w3 : Byte
deriving DecidableEq, Repr

/-- Five like things numbered 0 to 4: the bytes of a frame, the bytes of a reply, the flags of the reply slots
(00_scope.md R9, 10_state.md R20). -/
structure Slots (α : Type) where
  b0 : α
  b1 : α
  b2 : α
  b3 : α
  b4 : α
deriving DecidableEq, Repr

end Sys2Proof
end

