-- ==== Sys2Proof/Syntax.lean ====
section
/-! DEFINITION. The instructions: the fourteen operations of 30_encoding.md R71, one constructor for each row of
spec/opcode_table.json, with the operands that 30_encoding.md R75, R76 and R88 give them. -/

namespace Sys2Proof

/-- A CFE command (30_encoding.md R71). The operands stand in the order of the assembler syntax of R88. -/
inductive Instr where
  /-- NOP, OP 0x0 (41_frame_build.md R132). -/
  | nop
  /-- FRAME_CLEAR, OP 0x1 (R133). -/
  | frameClear
  /-- BUILD_RAW, OP 0x2: four payload bytes and the CAT opcode (R134). -/
  | buildRaw (p0 p1 p2 p3 opc : Byte)
  /-- BUILD_FREQ, OP 0x3: a frequency in 10 Hz units and the CAT opcode (R135). -/
  | buildFreq (f : Word32) (opc : Byte)
  /-- BUILD_NVMRD, OP 0x4: an NVM address and the CAT opcode (R136). -/
  | buildNvmrd (addr : NvmAddr) (opc : Byte)
  /-- BUILD_NVMWR, OP 0x5: an NVM address, the new data, the sibling byte and the CAT opcode (R138). -/
  | buildNvmwr (addr : NvmAddr) (data sib opc : Byte)
  /-- BUILD_TOGGLE, OP 0x6: the CAT opcode (R139). -/
  | buildToggle (opc : Byte)
  /-- SEND_FRAME, OP 0x7 (42_dispatcher.md R170). -/
  | sendFrame
  /-- READ_REPLY, OP 0x8: the expected reply length, the 4-bit field LEN (R171). -/
  | readReply (len : BitVec 4)
  /-- TRANSACT, OP 0x9: the expected reply length, the 4-bit field LEN (R172). -/
  | transact (len : BitVec 4)
  /-- SINGLE_BYTE_CMD, OP 0xA: the CAT opcode (R173). -/
  | singleByteCmd (opc : Byte)
  /-- ENC_FREQ, OP 0xB: a frequency in 10 Hz units (40_bcd_codec.md R107). -/
  | encFreq (f : Word32)
  /-- DEC_FREQ, OP 0xC: a wire word (R108). -/
  | decFreq (w : Word32)
  /-- PARSE_FREQ_REPLY, OP 0xD (R109). -/
  | parseFreqReply
deriving DecidableEq, Repr

end Sys2Proof
end

