-- ==== Sys2Proof/WellFormed.lean ====
section
/-! DEFINITION. Which terms of Instr are instructions: the one check that the operand types leave open is the set of
legal reply lengths (30_encoding.md R72). -/

namespace Sys2Proof

/-- `LEN_SET`, "Its legal values are exactly 0, 1, 2 and 5" (30_encoding.md R72, 00_scope.md R6). -/
def legalLen (len : BitVec 4) : Bool :=
  len == 0 || len == 1 || len == 2 || len == 5

/-- The operands of a command are ones its encoding admits (30_encoding.md R76): only READ_REPLY and TRANSACT have
an operand with values that are not all legal. -/
def Instr.wellFormed : Instr → Bool
  | .nop => true
  | .frameClear => true
  | .buildRaw _ _ _ _ _ => true
  | .buildFreq _ _ => true
  | .buildNvmrd _ _ => true
  | .buildNvmwr _ _ _ _ => true
  | .buildToggle _ => true
  | .sendFrame => true
  | .readReply len => legalLen len
  | .transact len => legalLen len
  | .singleByteCmd _ => true
  | .encFreq _ => true
  | .decFreq _ => true
  | .parseFreqReply => true

end Sys2Proof
end

