-- ==== Sys2Proof/Decode.lean ====
section
/-! DEFINITION. The command word's encoding: its fields (30_encoding.md R70 to R76), the legality function of R77, the
decoder (total, rejecting by name), the encoder, and the rows of the opcode table (R90). -/

namespace Sys2Proof

/-- A command word from its five fields, `OP[63:60] LEN[59:56] OPC[55:48] RSV[47:32] ARG[31:0]` (30_encoding.md R70). -/
def commandWord (op len : BitVec 4) (opc : Byte) (rsv : BitVec 16) (arg : Word32) : CommandWord :=
  op ++ len ++ opc ++ rsv ++ arg

/-- OP, bits 63:60 (30_encoding.md R70). -/
def opField (cw : CommandWord) : BitVec 4 := cw.extractLsb' 60 4
/-- LEN, bits 59:56 (R70, R72). -/
def lenField (cw : CommandWord) : BitVec 4 := cw.extractLsb' 56 4
/-- OPC, bits 55:48 (R70, R73). -/
def opcField (cw : CommandWord) : Byte := cw.extractLsb' 48 8
/-- RSV, bits 47:32 (R70, R74). -/
def rsvField (cw : CommandWord) : BitVec 16 := cw.extractLsb' 32 16
/-- ARG, bits 31:0 (R70, R75). -/
def argField (cw : CommandWord) : Word32 := cw.extractLsb' 0 32

/-- The four bytes of a 32-bit value in wire order: byte `j` is bits `[31-8j : 24-8j]` (20_memory.md R55). -/
def wireOfWord (arg : Word32) : WireWord :=
  ⟨arg.extractLsb' 24 8, arg.extractLsb' 16 8, arg.extractLsb' 8 8, arg.extractLsb' 0 8⟩

/-- The 32-bit value of four bytes in wire order, `w0 ++ w1 ++ w2 ++ w3` (20_memory.md R55). -/
def wordOfWire (w : WireWord) : Word32 := w.w0 ++ w.w1 ++ w.w2 ++ w.w3

/-- `ARG[31:16]`, the NVM address of BUILD_NVMRD and BUILD_NVMWR (30_encoding.md R75). -/
def argAddr (arg : Word32) : NvmAddr := arg.extractLsb' 16 16

/-- `ARG[15:0]`, which BUILD_NVMRD requires to be 0 (30_encoding.md R75). -/
def argLow (arg : Word32) : BitVec 16 := arg.extractLsb' 0 16

/-- `Legal(cw)`, case by case as 30_encoding.md R77 writes it. -/
def legal (cw : CommandWord) : Bool :=
  let len := lenField cw
  let opc := opcField cw
  let arg := argField cw
  rsvField cw == 0 &&
    match (opField cw).toNat with
    | 0x0 | 0x1 | 0x7 | 0xD => len == 0 && opc == 0 && arg == 0
    | 0x2 | 0x3 | 0x5 => len == 0
    | 0x4 => len == 0 && argLow arg == 0
    | 0x6 | 0xA => len == 0 && arg == 0
    | 0x8 | 0x9 => legalLen len && opc == 0 && arg == 0
    | 0xB | 0xC => len == 0 && opc == 0
    | _ => false

/-- Why the decoder rejects a word: one of the reserved encodings of 30_encoding.md R79. The CFE records only that a
word was illegal (60_exceptions.md R211: "only the bit"); which name a word with several defects gets is the model's
order of checks (DESIGN CHOICE, notes/assumptions/11.md). -/
inductive DecodeError where
  /-- OP is 0xE or 0xF. -/
  | reservedOp
  /-- RSV is not zero. -/
  | rsvNonzero
  /-- LEN is not zero and the operation does not use it. -/
  | lenNonzero
  /-- LEN of READ_REPLY or TRANSACT is none of 0, 1, 2, 5. -/
  | lenNotLegal
  /-- OPC is not zero and the operation does not use it. -/
  | opcNonzero
  /-- ARG is not zero and the operation does not use it. -/
  | argNonzero
  /-- `ARG[15:0]` of BUILD_NVMRD is not zero. -/
  | argLowNonzero
deriving DecidableEq, Repr

/-- `r` when LEN is 0. -/
def whenLenZero (cw : CommandWord) (r : Except DecodeError Instr) : Except DecodeError Instr :=
  if lenField cw = 0 then r else .error .lenNonzero

/-- `r` when LEN is 0, 1, 2 or 5 (30_encoding.md R72). -/
def whenLenLegal (cw : CommandWord) (r : Except DecodeError Instr) : Except DecodeError Instr :=
  if legalLen (lenField cw) then r else .error .lenNotLegal

/-- `r` when OPC is 0 (30_encoding.md R73). -/
def whenOpcZero (cw : CommandWord) (r : Except DecodeError Instr) : Except DecodeError Instr :=
  if opcField cw = 0 then r else .error .opcNonzero

/-- `r` when ARG is 0 (30_encoding.md R75). -/
def whenArgZero (cw : CommandWord) (r : Except DecodeError Instr) : Except DecodeError Instr :=
  if argField cw = 0 then r else .error .argNonzero

/-- `r` when `ARG[15:0]` is 0 (30_encoding.md R75, 41_frame_build.md R136). -/
def whenArgLowZero (cw : CommandWord) (r : Except DecodeError Instr) : Except DecodeError Instr :=
  if argLow (argField cw) = 0 then r else .error .argLowNonzero

/-- The decoder: the command a word stands for, or the reason it is illegal (30_encoding.md R71 to R77). -/
def decode (cw : CommandWord) : Except DecodeError Instr :=
  let opc := opcField cw
  let arg := argField cw
  let p := wireOfWord arg
  if rsvField cw = 0 then
    match (opField cw).toNat with
    | 0x0 => whenLenZero cw (whenOpcZero cw (whenArgZero cw (.ok .nop)))
    | 0x1 => whenLenZero cw (whenOpcZero cw (whenArgZero cw (.ok .frameClear)))
    | 0x2 => whenLenZero cw (.ok (.buildRaw p.w0 p.w1 p.w2 p.w3 opc))
    | 0x3 => whenLenZero cw (.ok (.buildFreq arg opc))
    | 0x4 => whenLenZero cw (whenArgLowZero cw (.ok (.buildNvmrd (argAddr arg) opc)))
    | 0x5 => whenLenZero cw (.ok (.buildNvmwr (argAddr arg) p.w2 p.w3 opc))
    | 0x6 => whenLenZero cw (whenArgZero cw (.ok (.buildToggle opc)))
    | 0x7 => whenLenZero cw (whenOpcZero cw (whenArgZero cw (.ok .sendFrame)))
    | 0x8 => whenLenLegal cw (whenOpcZero cw (whenArgZero cw (.ok (.readReply (lenField cw)))))
    | 0x9 => whenLenLegal cw (whenOpcZero cw (whenArgZero cw (.ok (.transact (lenField cw)))))
    | 0xA => whenLenZero cw (whenArgZero cw (.ok (.singleByteCmd opc)))
    | 0xB => whenLenZero cw (whenOpcZero cw (.ok (.encFreq arg)))
    | 0xC => whenLenZero cw (whenOpcZero cw (.ok (.decFreq arg)))
    | 0xD => whenLenZero cw (whenOpcZero cw (whenArgZero cw (.ok .parseFreqReply)))
    | _ => .error .reservedOp
  else .error .rsvNonzero

/-- The encoder: `OP<<60 | LEN<<56 | OPC<<48 | ARG`, with the operands laid out as 30_encoding.md R88 says. -/
def encode : Instr → CommandWord
  | .nop => commandWord 0x0 0 0 0 0
  | .frameClear => commandWord 0x1 0 0 0 0
  | .buildRaw p0 p1 p2 p3 opc => commandWord 0x2 0 opc 0 (p0 ++ p1 ++ p2 ++ p3)
  | .buildFreq f opc => commandWord 0x3 0 opc 0 f
  | .buildNvmrd addr opc => commandWord 0x4 0 opc 0 (addr ++ (0 : BitVec 16))
  | .buildNvmwr addr data sib opc => commandWord 0x5 0 opc 0 (addr ++ data ++ sib)
  | .buildToggle opc => commandWord 0x6 0 opc 0 0
  | .sendFrame => commandWord 0x7 0 0 0 0
  | .readReply len => commandWord 0x8 len 0 0 0
  | .transact len => commandWord 0x9 len 0 0 0
  | .singleByteCmd opc => commandWord 0xA 0 opc 0 0
  | .encFreq f => commandWord 0xB 0 0 0 f
  | .decFreq w => commandWord 0xC 0 0 0 w
  | .parseFreqReply => commandWord 0xD 0 0 0 0

/-- One row of the opcode table: a word matches when its bits under `mask` are `pattern`, and `lens` lists the legal
LEN values where "a mask cannot express the set" (30_encoding.md R90). -/
structure TableRow where
  pattern : CommandWord
  mask : CommandWord
  lens : Option (List (BitVec 4))
deriving DecidableEq, Repr

/-- The rows of spec/opcode_table.json, in its order (30_encoding.md R90). -/
def tableRows : List TableRow :=
  [ ⟨0x0000000000000000, 0xFFFFFFFFFFFFFFFF, none⟩,
    ⟨0x1000000000000000, 0xFFFFFFFFFFFFFFFF, none⟩,
    ⟨0x2000000000000000, 0xFF00FFFF00000000, none⟩,
    ⟨0x3000000000000000, 0xFF00FFFF00000000, none⟩,
    ⟨0x4000000000000000, 0xFF00FFFF0000FFFF, none⟩,
    ⟨0x5000000000000000, 0xFF00FFFF00000000, none⟩,
    ⟨0x6000000000000000, 0xFF00FFFFFFFFFFFF, none⟩,
    ⟨0x7000000000000000, 0xFFFFFFFFFFFFFFFF, none⟩,
    ⟨0x8000000000000000, 0xF0FFFFFFFFFFFFFF, some [0, 1, 2, 5]⟩,
    ⟨0x9000000000000000, 0xF0FFFFFFFFFFFFFF, some [0, 1, 2, 5]⟩,
    ⟨0xA000000000000000, 0xFF00FFFFFFFFFFFF, none⟩,
    ⟨0xB000000000000000, 0xFFFFFFFF00000000, none⟩,
    ⟨0xC000000000000000, 0xFFFFFFFF00000000, none⟩,
    ⟨0xD000000000000000, 0xFFFFFFFFFFFFFFFF, none⟩ ]

/-- The word matches the row's fixed bits (30_encoding.md R90). -/
def TableRow.matchesWord (r : TableRow) (cw : CommandWord) : Bool := cw &&& r.mask == r.pattern

/-- Where the row lists LEN values, the word's LEN is one of them (30_encoding.md R90). -/
def TableRow.listsLen (r : TableRow) (cw : CommandWord) : Bool :=
  match r.lens with
  | none => true
  | some ls => ls.contains (lenField cw)

/-- The instruction the decoder reads from a table row's word. The table numbers the bits of the one 64-bit command
word as R70 does, so the word is the number itself (notes/assumptions/1.md). -/
def decodeTableWord (nbits w : Nat) : Option Instr :=
  match decode (BitVec.ofNat 64 (w % 2 ^ nbits)) with
  | .ok i => some i
  | .error _ => none

end Sys2Proof
end

