-- ==== Sys2Proof/Config.lean ====
section
/-! DEFINITION. What an implementation of the CFE fixes (00_scope.md R6) and what nothing fixes (42_dispatcher.md R161):
opaque constants, so that no proof can see a value of one. -/

namespace Sys2Proof

/-- `FRAME_LEN`: "exactly 5 bytes" (00_scope.md R6). -/
def Config.frameLen : Nat := 5

/-- `T_TIMEOUT_S`: the reply wait ceiling in seconds (00_scope.md R6). -/
def Config.timeoutSeconds : Nat := 2

/-- `TICK_HZ`: ticks per second, OPEN (00_scope.md R6, 92_eei_decisions.md D9). -/
opaque Config.tickHz : Nat

/-- The DEFAULT of `T_TIMEOUT`, `T_TIMEOUT_S * TICK_HZ` (00_scope.md R6). The model does not fix `T_TIMEOUT` at it
(notes/assumptions/7.md). -/
def Config.defaultTimeout : Nat := Config.timeoutSeconds * Config.tickHz

/-- By how much `T_TIMEOUT` exceeds its least value 1. -/
opaque Config.timeoutAboveOne : Nat

/-- By how much `TW` exceeds the least width that holds `T_TIMEOUT`. -/
opaque Config.timerBitsToSpare : Nat

/-- By how much `RXQ_DEPTH` exceeds its least value 5. -/
opaque Config.depthAboveFive : Nat

/-- The open parameters that a rule of the CFE reads (00_scope.md R6). The step is a function of them, so that a
test can run it at the settings of 95_test_vectors.md. -/
structure Params where
  /-- `T_TIMEOUT`: reply wait ceiling in ticks. -/
  tTimeout : Nat
  /-- `TW`: width in bits of the timeout timer. -/
  tw : Nat
  /-- `RXQ_DEPTH`: capacity of the transport's receive queue. -/
  rxqDepth : Nat
deriving DecidableEq, Repr

/-- The laws of 00_scope.md R6: `T_TIMEOUT` is at least 1, `T_TIMEOUT <= 2^TW - 1`, `RXQ_DEPTH` is at least 5. -/
abbrev Params.Lawful (p : Params) : Prop :=
  1 ≤ p.tTimeout ∧ p.tTimeout ≤ 2 ^ p.tw - 1 ∧ 5 ≤ p.rxqDepth

/-- The parameters of this CFE: any values that meet `Params.Lawful` (notes/assumptions/6.md). -/
def Config.params : Params where
  tTimeout := Config.timeoutAboveOne + 1
  tw := Nat.log2 (Config.timeoutAboveOne + 1) + 1 + Config.timerBitsToSpare
  rxqDepth := Config.depthAboveFive + 5

/-! The draws: the value of each input in cycle `n` where the state's script does not give it. "free inputs of the
step, under no law. A claim about the CFE must hold for every sequence of them" (42_dispatcher.md R161). -/

/-- `rst` in a cycle (10_state.md R31). -/
opaque Config.drawRst : Nat → Bool
/-- `tick` in a cycle (R31, 42_dispatcher.md R162). -/
opaque Config.drawTick : Nat → Bool
/-- `cmd_valid` in a cycle (R31). -/
opaque Config.drawCmdValid : Nat → Bool
/-- `cmd_word` in a cycle (R31). -/
opaque Config.drawCmdWord : Nat → CommandWord
/-- `tx_ready` in a cycle (R31, R161). -/
opaque Config.drawTxReady : Nat → Bool
/-- The bytes `A` that the radio delivers in a cycle (R161). -/
opaque Config.drawArrivals : Nat → List Byte

/-- What the receive queue holds after a cycle that would queue more than `RXQ_DEPTH` bytes: "the transport's
behaviour and is left open" (42_dispatcher.md R161; notes/assumptions/5.md). -/
opaque Config.overflowedQueue : Nat → List Byte

end Sys2Proof
end

