-- ==== Sys2Proof/Machine/State.lean ====
section
/-! DEFINITION. The state: the CFE's registers, exactly those of 10_state.md R20; the transport of 42_dispatcher.md R161;
and the inputs of the coming cycles. Reset, and the two ways a step can stop. -/

namespace Sys2Proof.Machine

/-- `PHASE` (10_state.md R28). -/
inductive Phase where
  /-- No command in flight. -/
  | idle
  /-- Offering `TXF[i]` to the transport. -/
  | tx (i : Fin 5)
  /-- Waiting for reply slot `k`. -/
  | rx (k : Fin 5)
deriving DecidableEq, Repr

/-- `CUR_OP`: which command is in flight (10_state.md R29). -/
inductive CurOp where
  /-- SEND_FRAME. -/
  | send
  /-- READ_REPLY. -/
  | read
  /-- TRANSACT. -/
  | xact
  /-- SINGLE_BYTE_CMD. -/
  | sbc
deriving DecidableEq, Repr

/-- The CFE's registers: "exactly the following list. The model's state record holds these fields and nothing else"
(10_state.md R20). `STATUS.BUSY` is derived from `phase` (R27). -/
structure Cfe where
  /-- `TXF[0..4]`, the outbound command frame (R22). -/
  txf : Slots Byte
  /-- `RXB[0..4]`, the inbound reply bytes (R23). -/
  rxb : Slots Byte
  /-- `RXV[0..4]`, the "data received" flag of each slot (R24). -/
  rxv : Slots Bool
  /-- `RES`, the result register (R25). -/
  res : Word32
  /-- `RESV`, its validity (R26). -/
  resv : Bool
  /-- `STATUS.ILL` (R27). -/
  statusIll : Bool
  /-- `STATUS.TO` (R27). -/
  statusTo : Bool
  /-- `PHASE` (R28). -/
  phase : Phase
  /-- `CUR_OP` (R29). -/
  curOp : CurOp
  /-- `CUR_LEN`, 3 bits (R29). -/
  curLen : BitVec 3
  /-- `TMR`, the ticks counted in the current reply slot; `TW` bits (R30). -/
  tmr : Nat
deriving DecidableEq, Repr

/-- The inputs of one cycle (10_state.md R31). `rx_avail` and `rx_data` are no separate inputs: the transport drives
them from its receive queue (42_dispatcher.md R161). -/
structure Inputs where
  rst : Bool
  tick : Bool
  cmdValid : Bool
  cmdWord : CommandWord
  txReady : Bool
  /-- `A`, the bytes the radio delivers in this cycle, first one first (R161). -/
  arrivals : List Byte
deriving DecidableEq, Repr

/-- The whole machine at the start of a cycle. -/
structure State where
  /-- The CFE's registers (10_state.md R20). -/
  cfe : Cfe
  /-- `RXQ`, the transport's receive queue, head first (42_dispatcher.md R161). -/
  rxq : List Byte
  /-- `TXLOG`, the bytes the transport has accepted, oldest first (R161). -/
  txlog : List Byte
  /-- The MODEL's own: the inputs of this cycle and the coming ones, one record a cycle; past its end the inputs are
  the draws of Config (notes/assumptions/2.md). -/
  script : List Inputs
  /-- The MODEL's own: the number of cycles run, which indexes the draws (notes/assumptions/3.md). -/
  cycle : Nat
deriving DecidableEq, Repr

/-- How the machine stops with a fault. No condition of the CFE is one (60_exceptions.md R210, R214). -/
inductive Fault where
  /-- Raised by the reply phase alone, when a byte fills slot 4 and `CUR_LEN` is not 5: there is no `RX(5)`, and
  "`RX(k)` occurs only with `k < CUR_LEN`" (10_state.md R28), so no run from reset reaches it. Safe: the machine stops in a
  state that the spec rules out (notes/assumptions/14.md). -/
  | rxSlotOutOfRange
deriving DecidableEq, Repr

/-- How the machine refuses an instruction. -/
inductive Refusal where
  /-- Raised by exec alone, for an instruction that has no meaning yet; every instruction has one. Safe. -/
  | notModelled (mnemonic : String)
deriving DecidableEq, Repr

/-- The registers after reset (10_state.md R36). `CUR_OP` is SEND as the table has it, "meaningless while IDLE, so any
value would do" (notes/assumptions/9.md). -/
def Cfe.reset : Cfe where
  txf := ⟨0, 0, 0, 0, 0⟩
  rxb := ⟨0, 0, 0, 0, 0⟩
  rxv := ⟨false, false, false, false, false⟩
  res := 0
  resv := false
  statusIll := false
  statusTo := false
  phase := .idle
  curOp := .send
  curLen := 0
  tmr := 0

/-- The machine right after reset: the registers of R36. The transport is no part of the CFE and `rst` does not touch it;
it starts empty (DESIGN CHOICE, notes/assumptions/4.md), and every input is free. -/
def State.reset : State where
  cfe := Cfe.reset
  rxq := []
  txlog := []
  script := []
  cycle := 0

end Sys2Proof.Machine
end

