-- ==== Sys2Proof/Machine/Slots.lean ====
section
/-! DEFINITION. Reading and writing one of five numbered places (00_scope.md R9, R10: `x[i]` and `x[i] <- v`). -/

namespace Sys2Proof

/-- `x[i]` (00_scope.md R10). -/
def Slots.get {α : Type} (x : Slots α) : Fin 5 → α
  | 0 => x.b0
  | 1 => x.b1
  | 2 => x.b2
  | 3 => x.b3
  | 4 => x.b4

/-- `x[i] <- v` (00_scope.md R10). -/
def Slots.set {α : Type} (x : Slots α) (i : Fin 5) (v : α) : Slots α :=
  match i with
  | 0 => { x with b0 := v }
  | 1 => { x with b1 := v }
  | 2 => { x with b2 := v }
  | 3 => { x with b3 := v }
  | 4 => { x with b4 := v }

/-- The same value in all five places. -/
def Slots.fill {α : Type} (v : α) : Slots α := ⟨v, v, v, v, v⟩

/-- The five values in wire order, `[x[0], .., x[4]]` (00_scope.md R9). -/
def Slots.toList {α : Type} (x : Slots α) : List α := [x.b0, x.b1, x.b2, x.b3, x.b4]

end Sys2Proof
end

