-- ==== Sys2Proof/Machine/Operands.lean ====
section
/-! DEFINITION. How operands become frame bytes and how frame bytes become values (20_memory.md R51 to R55, 30_encoding.md
R75, R80 to R86). -/

namespace Sys2Proof.Machine

/-- A frame: four payload bytes, then the CAT opcode, "byte 4 is always the opcode" (30_encoding.md R80). -/
def frameOf (w : WireWord) (opc : Byte) : Slots Byte := ⟨w.w0, w.w1, w.w2, w.w3, opc⟩

/-- `addr[15:8]`, frame byte 0 of both NVM frames (41_frame_build.md R137). -/
def addrMsb (addr : NvmAddr) : Byte := addr.extractLsb' 8 8

/-- `addr[7:0]`, frame byte 1 of both NVM frames (41_frame_build.md R137). -/
def addrLsb (addr : NvmAddr) : Byte := addr.extractLsb' 0 8

/-- The first four reply slots as a wire word (30_encoding.md R86). -/
def replyWire (rxb : Slots Byte) : WireWord := ⟨rxb.b0, rxb.b1, rxb.b2, rxb.b3⟩

/-- `zext_32` of a reply byte (42_dispatcher.md R169). -/
def zext32 (b : Byte) : Word32 := b.setWidth 32

/-- `CUR_LEN` holds the LEN field in 3 bits; every legal LEN fits (10_state.md R20, R29). -/
def curLenOf (len : BitVec 4) : BitVec 3 := len.setWidth 3

end Sys2Proof.Machine
end

