-- ==== Sys2Proof/Machine/Codec.lean ====
section
/-! DEFINITION. The codec functions: combinational, of their operands alone (40_bcd_codec.md R100 to R103, R110). -/

namespace Sys2Proof.Machine

/-- The high nibble of a byte, `b[7:4]`, as a number. -/
def hiNibble (b : Byte) : Nat := b.toNat / 16

/-- The low nibble of a byte, `b[3:0]`, as a number. -/
def loNibble (b : Byte) : Nat := b.toNat % 16

/-- Both nibbles of a byte are decimal digits (40_bcd_codec.md R100). -/
def isBcdByte (b : Byte) : Bool := decide (hiNibble b ≤ 9) && decide (loNibble b ≤ 9)

/-- `IsBcd(w)` (40_bcd_codec.md R100). -/
def isBcd (w : WireWord) : Bool :=
  isBcdByte w.w0 && isBcdByte w.w1 && isBcdByte w.w2 && isBcdByte w.w3

/-- `d_k`, the decimal digit of weight `10^k` of `y` (40_bcd_codec.md R101). -/
def digit (y k : Nat) : Nat := y / 10 ^ k % 10

/-- `(hi << 4) | lo` (40_bcd_codec.md R101). -/
def packDigits (hi lo : Nat) : Byte := (BitVec.ofNat 8 hi <<< 4) ||| BitVec.ofNat 8 lo

/-- `BcdEncode(x)`: the low 8 decimal digits, two a byte, most significant byte first (40_bcd_codec.md R101). -/
def bcdEncode (x : Word32) : WireWord :=
  let y := x.toNat % 100000000
  { w0 := packDigits (digit y 7) (digit y 6)
    w1 := packDigits (digit y 5) (digit y 4)
    w2 := packDigits (digit y 3) (digit y 2)
    w3 := packDigits (digit y 1) (digit y 0) }

/-- One round of `BcdDecode`: `acc * 100 + (w_j[7:4] * 10 + w_j[3:0])`, each nibble at its plain value
(40_bcd_codec.md R102). -/
def decodeByte (acc : Nat) (b : Byte) : Nat := acc * 100 + (hiNibble b * 10 + loNibble b)

/-- The number a wire word stands for, before it is cut to 32 bits (40_bcd_codec.md R102). -/
def bcdValue (w : WireWord) : Nat := [w.w0, w.w1, w.w2, w.w3].foldl decodeByte 0

/-- `BcdDecode(w)` (40_bcd_codec.md R102). -/
def bcdDecode (w : WireWord) : Word32 := BitVec.ofNat 32 (bcdValue w)

end Sys2Proof.Machine
end

