-- ==== Sys2Proof/Machine/Flags.lean ====
section
/-! DEFINITION. The status register: BUSY is computed, ILL and TO are stored (10_state.md R27). -/

namespace Sys2Proof.Machine

/-- `PHASE != IDLE` (10_state.md R27, R28). -/
def Phase.busy : Phase → Bool
  | .idle => false
  | .tx _ => true
  | .rx _ => true

/-- `STATUS.BUSY` (10_state.md R27). -/
def Cfe.busy (c : Cfe) : Bool := c.phase.busy

/-- `STATUS` as its 3 bits: BUSY is bit 0, ILL bit 1, TO bit 2 (10_state.md R27). -/
def Cfe.status (c : Cfe) : BitVec 3 :=
  BitVec.ofBool c.statusTo ++ BitVec.ofBool c.statusIll ++ BitVec.ofBool c.busy

/-- The writes `STATUS.ILL <- 0; STATUS.TO <- 0` of every accepted legal command (60_exceptions.md R211, R212). -/
def Cfe.clearConditions (c : Cfe) : Cfe := { c with statusIll := false, statusTo := false }

/-- Condition ILLEGAL: `STATUS.ILL <- 1; STATUS.TO <- 0`, "Nothing else changes" (60_exceptions.md R211). -/
def Cfe.recordIllegal (c : Cfe) : Cfe := { c with statusIll := true, statusTo := false }

/-- Condition TIMEOUT: `STATUS.TO <- 1` (60_exceptions.md R212, 42_dispatcher.md R168). -/
def Cfe.recordTimeout (c : Cfe) : Cfe := { c with statusTo := true }

end Sys2Proof.Machine
end

