-- ==== Sys2Proof/Machine/Ops.lean ====
section
/-! DEFINITION. The named operations over the registers, the transport and the inputs (00_scope.md R10). The spec has no
trap to take and none to return from (60_exceptions.md R210, R218): the two conditions, ILLEGAL and TIMEOUT, are recorded
in the status register by one shared operation each. -/

namespace Sys2Proof.Machine

/-- An outcome of a step (Host/Core.lean). -/
abbrev Result := Host.Outcome State Fault Refusal

/-- Go on with `f` where the machine goes on. -/
def onNext (o : Result) (f : State → State) : Result :=
  match o with
  | .next s => .next (f s)
  | .fault r => .fault r
  | .refused r => .refused r

/-! Inputs -/

/-- The free inputs of cycle `n` (42_dispatcher.md R161). -/
def drawInputs (n : Nat) : Inputs where
  rst := Config.drawRst n
  tick := Config.drawTick n
  cmdValid := Config.drawCmdValid n
  cmdWord := Config.drawCmdWord n
  txReady := Config.drawTxReady n
  arrivals := Config.drawArrivals n

/-- The inputs of the current cycle: the script's head, else the draws (notes/assumptions/2.md). -/
def State.inputs (s : State) : Inputs :=
  match s.script with
  | i :: _ => i
  | [] => drawInputs s.cycle

/-! Registers -/

/-- Status cleared by an accepted legal command (60_exceptions.md R211, R212). -/
def State.clearConditions (s : State) : State := { s with cfe := s.cfe.clearConditions }

/-- Condition ILLEGAL recorded (30_encoding.md R78, 60_exceptions.md R211). -/
def State.recordIllegal (s : State) : State := { s with cfe := s.cfe.recordIllegal }

/-- Condition TIMEOUT recorded (60_exceptions.md R212). -/
def State.recordTimeout (s : State) : State := { s with cfe := s.cfe.recordTimeout }

/-- `TXF[0..4] <- f`, all five bytes in one write (41_frame_build.md R130). -/
def State.loadTxf (f : Slots Byte) (s : State) : State := { s with cfe := { s.cfe with txf := f } }

/-- `RES <- v; RESV <- b`: the two are always written together (10_state.md R26). -/
def State.loadRes (v : Word32) (b : Bool) (s : State) : State :=
  { s with cfe := { s.cfe with res := v, resv := b } }

/-- `PHASE <- p` (10_state.md R28). -/
def State.setPhase (p : Phase) (s : State) : State := { s with cfe := { s.cfe with phase := p } }

/-- `CUR_OP <- op; CUR_LEN <- len` (10_state.md R29). -/
def State.setCommand (op : CurOp) (len : BitVec 3) (s : State) : State :=
  { s with cfe := { s.cfe with curOp := op, curLen := len } }

/-- `TMR <- n` (10_state.md R30). -/
def State.setTmr (n : Nat) (s : State) : State := { s with cfe := { s.cfe with tmr := n } }

/-- `RXB[k] <- b; RXV[k] <- 1` (42_dispatcher.md R167). -/
def State.fillSlot (k : Fin 5) (b : Byte) (s : State) : State :=
  { s with cfe := { s.cfe with rxb := s.cfe.rxb.set k b, rxv := s.cfe.rxv.set k true } }

/-- `ReplySetup()`: `RXB`, `RXV` and `TMR` cleared (42_dispatcher.md R166). -/
def State.replySetup (s : State) : State :=
  { s with cfe := { s.cfe with rxb := Slots.fill 0, rxv := Slots.fill false, tmr := 0 } }

/-- Every register to its reset value; the transport is not touched (70_reset_and_hazards.md R241). -/
def State.resetCfe (s : State) : State := { s with cfe := Cfe.reset }

/-! Transport (42_dispatcher.md R161) -/

/-- `RxFlush()`: the receive queue is emptied at the end of the cycle; what arrives in the cycle comes after it. -/
def State.rxFlush (s : State) : State := { s with rxq := [] }

/-- `RxPop()`: the head byte leaves the receive queue. -/
def State.rxPop (s : State) : State := { s with rxq := s.rxq.tail }

/-- A TX handshake: the transport takes the offered byte (20_memory.md R58). -/
def State.txTake (b : Byte) (s : State) : State := { s with txlog := s.txlog ++ [b] }

/-- The receive queue `q` with the bytes `A` of cycle `n` queued behind it. Past `RXQ_DEPTH` bytes what the queue holds is
open, a free value of at most `RXQ_DEPTH` bytes (42_dispatcher.md R161; notes/assumptions/5.md). -/
def enqueue (p : Params) (n : Nat) (q A : List Byte) : List Byte :=
  if (q ++ A).length ≤ p.rxqDepth then q ++ A else (Config.overflowedQueue n).take p.rxqDepth

/-- The end of a cycle: the bytes of the cycle arrive, and the next cycle's inputs are due (42_dispatcher.md R161). -/
def State.endCycle (p : Params) (s : State) : State :=
  { s with
    rxq := enqueue p s.cycle s.rxq s.inputs.arrivals
    script := s.script.tail
    cycle := s.cycle + 1 }

end Sys2Proof.Machine
end

