-- ==== Sys2Proof/Machine/Bcd.lean ====
section
/-! DEFINITION. The meanings of the codec commands (40_bcd_codec.md R107 to R109): each writes `RES` and `RESV` and clears
ILL and TO, in the cycle it is accepted. -/

namespace Sys2Proof.Machine

/-- An accepted legal command that loads the result register (40_bcd_codec.md R107 to R109). -/
def deliver (v : Word32) (valid : Bool) (s : State) : Result := .next (s.clearConditions.loadRes v valid)

/-- ENC_FREQ (40_bcd_codec.md R107): `RES` is the wire word, byte 0 in `RES[31:24]`. -/
def execEncFreq (f : Word32) (s : State) : Result := deliver (wordOfWire (bcdEncode f)) true s

/-- DEC_FREQ (R108). -/
def execDecFreq (w : Word32) (s : State) : Result := deliver (bcdDecode (wireOfWord w)) true s

/-- PARSE_FREQ_REPLY (R109): `RESV` is the conjunction of the first four slots' flags. -/
def execParseFreqReply (s : State) : Result :=
  let v := s.cfe.rxv
  deliver (bcdDecode (replyWire s.cfe.rxb)) (v.b0 && v.b1 && v.b2 && v.b3) s

end Sys2Proof.Machine
end

