-- ==== Sys2Proof/Machine/FrameBuild.lean ====
section
/-! DEFINITION. The meanings of the frame-building commands (41_frame_build.md R130 to R139): each writes all five bytes
of `TXF` and clears ILL and TO, in the cycle it is accepted, and touches nothing else (R131). -/

namespace Sys2Proof.Machine

/-- An accepted legal command that loads a frame (41_frame_build.md R130, R131). -/
def buildFrame (f : Slots Byte) (s : State) : Result := .next (s.clearConditions.loadTxf f)

/-- NOP (41_frame_build.md R132): `STATUS.ILL <- 0; STATUS.TO <- 0`. -/
def execNop (s : State) : Result := .next s.clearConditions

/-- FRAME_CLEAR (R133). -/
def execFrameClear (s : State) : Result := buildFrame (Slots.fill 0) s

/-- BUILD_RAW (R134). -/
def execBuildRaw (p0 p1 p2 p3 opc : Byte) (s : State) : Result :=
  buildFrame (frameOf ⟨p0, p1, p2, p3⟩ opc) s

/-- BUILD_FREQ (R135, 30_encoding.md R81). -/
def execBuildFreq (f : Word32) (opc : Byte) (s : State) : Result :=
  buildFrame (frameOf (bcdEncode f) opc) s

/-- BUILD_NVMRD (R136, 30_encoding.md R82). -/
def execBuildNvmrd (addr : NvmAddr) (opc : Byte) (s : State) : Result :=
  buildFrame (frameOf ⟨addrMsb addr, addrLsb addr, 0, 0⟩ opc) s

/-- BUILD_NVMWR (R138, 30_encoding.md R83). -/
def execBuildNvmwr (addr : NvmAddr) (data sib opc : Byte) (s : State) : Result :=
  buildFrame (frameOf ⟨addrMsb addr, addrLsb addr, data, sib⟩ opc) s

/-- The pure-toggle frame, "bytes 0–3 = zero, byte 4 = the toggle's opcode" (30_encoding.md R84). -/
def toggleFrame (opc : Byte) : Slots Byte := frameOf ⟨0, 0, 0, 0⟩ opc

/-- BUILD_TOGGLE (R139, 30_encoding.md R84). -/
def execBuildToggle (opc : Byte) (s : State) : Result := buildFrame (toggleFrame opc) s

end Sys2Proof.Machine
end

