-- ==== Sys2Proof/Machine/Dispatcher.lean ====
section
/-! DEFINITION. The dispatcher and its timeout controller (42_dispatcher.md): what the cycle of acceptance of SEND_FRAME,
READ_REPLY, TRANSACT and SINGLE_BYTE_CMD does (their meanings), and what each later cycle of the command in flight does
(`txStep`, `rxStep`). -/

namespace Sys2Proof.Machine

/-- `AcceptSend` (42_dispatcher.md R164), the part that the three frame-sending commands share. -/
def State.acceptSend (op : CurOp) (len : BitVec 3) (s : State) : State :=
  ((s.rxFlush.clearConditions).setCommand op len).setPhase (.tx 0)

/-- Where a reply phase of length `len` starts: nowhere when `len` is 0 (42_dispatcher.md R165, R171, R177). -/
def replyStart (len : BitVec 3) : Phase := if len = 0 then .idle else .rx 0

/-- SEND_FRAME (R170), the cycle of acceptance. -/
def execSendFrame (s : State) : Result := .next (s.acceptSend .send 0)

/-- READ_REPLY (R171), the cycle of acceptance: `AcceptRead`. A word with another LEN is illegal, and as an instruction
the term does what accepting its word does (30_encoding.md R78; notes/assumptions/10.md). -/
def execReadReply (len : BitVec 4) (s : State) : Result :=
  if legalLen len then
    .next (((s.clearConditions.setCommand .read (curLenOf len)).replySetup).setPhase
      (replyStart (curLenOf len)))
  else .next s.recordIllegal

/-- TRANSACT (R172), the cycle of acceptance. For another LEN see `execReadReply`. -/
def execTransact (len : BitVec 4) (s : State) : Result :=
  if legalLen len then .next (s.acceptSend .xact (curLenOf len)) else .next s.recordIllegal

/-- SINGLE_BYTE_CMD (R173), the cycle of acceptance: "clears the frame, sets only the opcode", and clears `RES` and
`RESV` (R164). -/
def execSingleByteCmd (opc : Byte) (s : State) : Result :=
  .next (((s.acceptSend .sbc 1).loadTxf (toggleFrame opc)).loadRes 0 false)

/-- What the cycle that takes the fifth frame byte starts: SEND_FRAME is complete, the other commands go on to their
reply phase (42_dispatcher.md R165, R166). -/
def State.frameSent (s : State) : State :=
  match s.cfe.curOp with
  | .send => s.setPhase .idle
  | .read | .xact | .sbc => s.replySetup.setPhase (replyStart s.cfe.curLen)

/-- `TxStep(i)` (42_dispatcher.md R165): `TXF[i]` is offered; the cycle the transport takes it moves on, and until then
nothing changes (R178). -/
def State.txStep (i : Fin 5) (s : State) : State :=
  if s.inputs.txReady then
    let taken := s.txTake (s.cfe.txf.get i)
    if h : i.val < 4 then taken.setPhase (.tx ⟨i.val + 1, by omega⟩) else taken.frameSent
  else s

/-- `Finish()` (42_dispatcher.md R169): `got` is the byte that ended the reply phase, or none after a timeout. -/
def State.finish (got : Option Byte) (s : State) : State :=
  match s.cfe.curOp with
  | .sbc =>
    match got with
    | some b => (s.setPhase .idle).loadRes (zext32 b) true
    | none => (s.setPhase .idle).loadRes 0 false
  | .send | .read | .xact => s.setPhase .idle

/-- `TMR <- TMR + 1` in `TW` bits (42_dispatcher.md R168, 10_state.md R30; notes/assumptions/8.md). -/
def countTick (p : Params) (tmr : Nat) : Nat := (tmr + 1) % 2 ^ p.tw

/-- `RxStep(k)` with the byte `b` available (42_dispatcher.md R167). After slot 4 there is no slot to go on to; R28 rules
that state out, and the machine stops there (notes/assumptions/14.md). -/
def rxTake (k : Fin 5) (b : Byte) (s : State) : Result :=
  let filled := ((s.rxPop).fillSlot k b).setTmr 0
  if k.val + 1 = s.cfe.curLen.toNat then .next (filled.finish (some b))
  else if h : k.val + 1 < 5 then .next (filled.setPhase (.rx ⟨k.val + 1, h⟩))
  else .fault .rxSlotOutOfRange

/-- `RxStep(k)` with no byte available (42_dispatcher.md R168): ticks are counted, and the `T_TIMEOUT`-th ends the reply
phase. -/
def State.rxWait (p : Params) (s : State) : State :=
  if s.inputs.tick then
    if s.cfe.tmr + 1 = p.tTimeout then s.recordTimeout.finish none
    else s.setTmr (countTick p s.cfe.tmr)
  else s

/-- `RxStep(k)` (42_dispatcher.md R167, R168): "An available byte takes priority over a tick in the same cycle". -/
def rxStep (p : Params) (k : Fin 5) (s : State) : Result :=
  match s.rxq with
  | b :: _ => rxTake k b s
  | [] => .next (s.rxWait p)

end Sys2Proof.Machine
end

