-- ==== Sys2Proof/Machine/Dispatch.lean ====
section
/-! DEFINITION. One arm per instruction: the cycle in which the command is accepted (42_dispatcher.md R163). -/

namespace Sys2Proof.Machine

def exec (i : Instr) (s : State) : Host.Outcome State Fault Refusal :=
  match i with
  | .nop => Sys2Proof.Machine.execNop s
  | .frameClear => Sys2Proof.Machine.execFrameClear s
  | .buildRaw p0 p1 p2 p3 opc => Sys2Proof.Machine.execBuildRaw p0 p1 p2 p3 opc s
  | .buildFreq f opc => Sys2Proof.Machine.execBuildFreq f opc s
  | .buildNvmrd addr opc => Sys2Proof.Machine.execBuildNvmrd addr opc s
  | .buildNvmwr addr data sib opc => Sys2Proof.Machine.execBuildNvmwr addr data sib opc s
  | .buildToggle opc => Sys2Proof.Machine.execBuildToggle opc s
  | .sendFrame => Sys2Proof.Machine.execSendFrame s
  | .readReply len => Sys2Proof.Machine.execReadReply len s
  | .transact len => Sys2Proof.Machine.execTransact len s
  | .singleByteCmd opc => Sys2Proof.Machine.execSingleByteCmd opc s
  | .encFreq f => Sys2Proof.Machine.execEncFreq f s
  | .decFreq w => Sys2Proof.Machine.execDecFreq w s
  | .parseFreqReply => Sys2Proof.Machine.execParseFreqReply s

end Sys2Proof.Machine
end

