-- ==== Sys2Proof/Machine/Cycle.lean ====
section
/-! DEFINITION. One clock cycle (42_dispatcher.md R163, R161, 70_reset_and_hazards.md R240), for any values of the open
parameters. -/

namespace Sys2Proof.Machine

/-- A command word is accepted: an illegal one records ILL and nothing else (30_encoding.md R78), a legal one is
performed. -/
def acceptWord (cw : CommandWord) (s : State) : Result :=
  match decode cw with
  | .ok i => exec i s
  | .error _ => .next s.recordIllegal

/-- What the CFE does in a cycle, "exactly one of the following, chosen by `PHASE` at the start of the cycle"
(42_dispatcher.md R163); `rst` wins over everything (60_exceptions.md R216). -/
def cfeCycle (p : Params) (s : State) : Result :=
  if s.inputs.rst then .next s.resetCfe
  else
    match s.cfe.phase with
    | .idle => if s.inputs.cmdValid then acceptWord s.inputs.cmdWord s else .next s
    | .tx i => .next (s.txStep i)
    | .rx k => rxStep p k s

/-- One clock cycle of the CFE and its transport. -/
def cycleWith (p : Params) (s : State) : Result := onNext (cfeCycle p s) (State.endCycle p)

/-- Inputs that ask nothing of the CFE: no reset, no tick, no command, no readiness, no arrival. -/
def quietInputs : Inputs where
  rst := false
  tick := false
  cmdValid := false
  cmdWord := 0
  txReady := false
  arrivals := []

/-- The state with `PHASE = IDLE` and the host presenting `cw` in the current cycle, `rst` low: all that the acceptance
of `cw` takes (42_dispatcher.md R163, R179). Where the script says nothing of the cycle, its other inputs are quiet. -/
def State.present (cw : CommandWord) (s : State) : State :=
  let base := s.script.headD quietInputs
  { s.setPhase .idle with
    script := { base with rst := false, cmdValid := true, cmdWord := cw } :: s.script.tail }

end Sys2Proof.Machine
end

