-- ==== Sys2Proof/Machine/Step.lean ====
section
/-! DEFINITION. The step, one rising edge of `clk` (42_dispatcher.md R160), and the host's way to place a command. -/

namespace Sys2Proof.Machine

/-- One clock cycle at this CFE's parameters. -/
def step (s : State) : Host.Outcome State Fault Refusal := cycleWith Config.params s

/-- `s` with the table's word presented on the command port, so that the next step accepts it (notes/assumptions/1.md). -/
def State.withFetchWord (s : State) (nbits w : Nat) : State :=
  s.present (BitVec.ofNat 64 (w % 2 ^ nbits))

end Sys2Proof.Machine
end

