-- ==== Sys2Proof/Machine/Assembler.lean ====
section
/-! DEFINITION. The assembler's pseudo-instructions (30_encoding.md R89): notation for lists of commands. No command word
stands for one, so they are no constructors of Instr. -/

namespace Sys2Proof.Machine

/-- A pseudo-instruction (30_encoding.md R89). -/
inductive Pseudo where
  /-- `NVM_READ addr, opc`. -/
  | nvmRead (addr : NvmAddr) (opc : Byte)
  /-- `NVM_WRITE addr, data, sib, opc`. -/
  | nvmWrite (addr : NvmAddr) (data sib opc : Byte)
  /-- `TOGGLE opc`. -/
  | toggle (opc : Byte)
  /-- `SET_FREQ f, opc, len`: the host gives the reply length. -/
  | setFreq (f : Word32) (opc : Byte) (len : BitVec 4)
  /-- `READ_FREQ opc`. -/
  | readFreq (opc : Byte)
deriving DecidableEq, Repr

/-- The commands a pseudo-instruction expands to, in order (30_encoding.md R89). -/
def Pseudo.expand : Pseudo → List Instr
  | .nvmRead addr opc => [.buildNvmrd addr opc, .transact 2]
  | .nvmWrite addr data sib opc => [.buildNvmwr addr data sib opc, .transact 1]
  | .toggle opc => [.singleByteCmd opc]
  | .setFreq f opc len => [.buildFreq f opc, .transact len]
  | .readFreq opc => [.buildToggle opc, .transact 5, .parseFreqReply]

/-- The command words of a pseudo-instruction (30_encoding.md R88, R89). -/
def Pseudo.words (p : Pseudo) : List CommandWord := p.expand.map encode

end Sys2Proof.Machine
end

