-- ==== Sys2Proof/Machine/Ports.lean ====
section
/-! DEFINITION. The output ports (10_state.md R31): combinational functions of the state and the inputs of the current
cycle (42_dispatcher.md R179). -/

namespace Sys2Proof.Machine

/-- `rx_avail = (RXQ != [])` (42_dispatcher.md R161). -/
def State.rxAvail (s : State) : Bool := !s.rxq.isEmpty

/-- The OP field is one of the three frame-sending commands (42_dispatcher.md R179). -/
def sendsFrame (cw : CommandWord) : Bool := opField cw == 0x7 || opField cw == 0x9 || opField cw == 0xA

/-- `cmd_ready` (42_dispatcher.md R179). -/
def State.cmdReady (s : State) : Bool := !s.inputs.rst && !s.cfe.busy

/-- `tx_valid` (R179). -/
def State.txValid (s : State) : Bool :=
  !s.inputs.rst &&
    match s.cfe.phase with
    | .tx _ => true
    | .idle | .rx _ => false

/-- `tx_data` (R179). -/
def State.txData (s : State) : Byte :=
  if s.txValid then
    match s.cfe.phase with
    | .tx i => s.cfe.txf.get i
    | .idle | .rx _ => 0
  else 0

/-- `rx_pop` (R179). -/
def State.rxPopPort (s : State) : Bool :=
  !s.inputs.rst && s.rxAvail &&
    match s.cfe.phase with
    | .rx _ => true
    | .idle | .tx _ => false

/-- `rx_flush` (R179). -/
def State.rxFlushPort (s : State) : Bool :=
  !s.inputs.rst && !s.cfe.busy && s.inputs.cmdValid && legal s.inputs.cmdWord && sendsFrame s.inputs.cmdWord

/-- `x[0] ++ x[1] ++ x[2] ++ x[3] ++ x[4]` of five bytes, the packing of `txf_out` and `rxb_out` (10_state.md R31). -/
def packBytes (x : Slots Byte) : BitVec 40 := x.b0 ++ x.b1 ++ x.b2 ++ x.b3 ++ x.b4

/-- `RXV[0] ++ ... ++ RXV[4]`, the packing of `rxv_out` (10_state.md R31). -/
def packFlags (x : Slots Bool) : BitVec 5 :=
  BitVec.ofBool x.b0 ++ BitVec.ofBool x.b1 ++ BitVec.ofBool x.b2 ++ BitVec.ofBool x.b3 ++ BitVec.ofBool x.b4

/-- All outputs of 10_state.md R31. -/
structure Outputs where
  cmdReady : Bool
  txValid : Bool
  txData : Byte
  rxPop : Bool
  rxFlush : Bool
  stBusy : Bool
  stIll : Bool
  stTo : Bool
  txfOut : BitVec 40
  rxbOut : BitVec 40
  rxvOut : BitVec 5
  resOut : Word32
  resvOut : Bool
deriving DecidableEq, Repr

/-- The outputs of the current cycle; the host can read them all in every cycle (10_state.md R32). -/
def State.outputs (s : State) : Outputs where
  cmdReady := s.cmdReady
  txValid := s.txValid
  txData := s.txData
  rxPop := s.rxPopPort
  rxFlush := s.rxFlushPort
  stBusy := s.cfe.busy
  stIll := s.cfe.statusIll
  stTo := s.cfe.statusTo
  txfOut := packBytes s.cfe.txf
  rxbOut := packBytes s.cfe.rxb
  rxvOut := packFlags s.cfe.rxv
  resOut := s.cfe.res
  resvOut := s.cfe.resv

end Sys2Proof.Machine
end

