-- ==== Sys2Proof/Safety.lean ====
section
/-! DEFINITION. The terms claims use: the inputs of the coming cycles, runs of them, the invariant of the registers, whole
frames on the wire, and which pairs of states the host cannot tell apart. -/

namespace Sys2Proof.Machine

/-! The inputs of a run -/

/-- The inputs of the cycle `n` cycles from now. -/
def State.inputsAt (s : State) (n : Nat) : Inputs :=
  match s.script[n]? with
  | some i => i
  | none => drawInputs (s.cycle + n)

/-- How many of the `n` cycles from cycle `start` on have inputs that satisfy `f`. -/
def State.countInputs (f : Inputs → Bool) (s : State) (start n : Nat) : Nat :=
  (List.range n).countP fun j => f (s.inputsAt (start + j))

/-- No reset in the next `n` cycles. -/
def State.NoReset (s : State) (n : Nat) : Prop := ∀ j < n, (s.inputsAt j).rst = false

/-- Nothing arrives in the next `n` cycles. -/
def State.NoArrival (s : State) (n : Nat) : Prop := ∀ j < n, (s.inputsAt j).arrivals = []

/-- The bytes of this cycle leave the receive queue within its capacity (92_eei_decisions.md D28: "Claims should assume no
overflow as a premise"). -/
def State.NoOverflow (s : State) : Prop :=
  ((if s.rxFlushPort then [] else if s.rxPopPort then s.rxq.tail else s.rxq) ++ s.inputs.arrivals).length
    ≤ Config.params.rxqDepth

/-- The cycle accepts the word `cw`: `rst = 0`, `PHASE = IDLE`, and the host presents it (42_dispatcher.md R163). -/
def State.Accepts (s : State) (cw : CommandWord) : Prop :=
  s.inputs.rst = false ∧ s.cfe.phase = .idle ∧ s.inputs.cmdValid = true ∧ s.inputs.cmdWord = cw

/-- `n` steps (Host/Core.lean). -/
abbrev run (n : Nat) (s : State) : Result := Host.Core.run core n s

/-- The bytes that leave the receive queue by a pop in the next `n` cycles, first one first. -/
def poppedBytes : Nat → State → List Byte
  | 0, _ => []
  | n + 1, s =>
    (if s.rxPopPort then s.rxq.take 1 else []) ++
      match step s with
      | .next t => poppedBytes n t
      | .fault _ => []
      | .refused _ => []

/-- The first `n` cycles all start in the reply phase. -/
def InReply : Nat → State → Prop
  | 0, _ => True
  | n + 1, s =>
    (∃ k, s.cfe.phase = .rx k) ∧
      match step s with
      | .next t => InReply n t
      | .fault _ => False
      | .refused _ => False

/-! The invariant of the registers -/

/-- The slots that hold data are the leading ones, `m` of them, and a slot without data holds 0x00 (10_state.md R24,
60_exceptions.md R212). -/
def SlotsFilled (c : Cfe) (m : Nat) : Prop :=
  ∀ j : Fin 5, (c.rxv.get j = true ↔ j.val < m) ∧ (c.rxv.get j = false → c.rxb.get j = 0)

/-- What `PHASE` says of the command in flight (10_state.md R28, R29). -/
def CommandInFlight (c : Cfe) : Prop :=
  match c.phase with
  | .idle => True
  | .tx _ => c.curOp ≠ .read
  | .rx k => c.curOp ≠ .send ∧ k.val < c.curLen.toNat ∧ SlotsFilled c k.val

/-- The invariant: what the rules of 10_state.md say the registers hold together. -/
structure Inv (s : State) : Prop where
  /-- `CUR_LEN` is 0, 1, 2 or 5 (R20). -/
  lenLegal : s.cfe.curLen = 0 ∨ s.cfe.curLen = 1 ∨ s.cfe.curLen = 2 ∨ s.cfe.curLen = 5
  /-- `CUR_LEN` is 0 for SEND_FRAME (R29). -/
  sendLen : s.cfe.busy = true → s.cfe.curOp = .send → s.cfe.curLen = 0
  /-- `CUR_LEN` is 1 for SINGLE_BYTE_CMD, whose result is cleared until it finishes (R29, R25). -/
  sbcLen : s.cfe.busy = true → s.cfe.curOp = .sbc → s.cfe.curLen = 1 ∧ s.cfe.res = 0 ∧ s.cfe.resv = false
  /-- `RX(k)` occurs only with `k < CUR_LEN` (R28), with exactly the slots before `k` filled. -/
  inFlight : CommandInFlight s.cfe
  /-- The filled slots are the leading ones (R24). -/
  slots : ∃ m ≤ 5, SlotsFilled s.cfe m
  /-- `TMR` never reaches the ceiling (R30). -/
  timer : s.cfe.tmr < Config.params.tTimeout
  /-- ILL and TO are never both 1, and an illegal command starts no phase (R27). -/
  status : s.cfe.statusIll = true → s.cfe.statusTo = false ∧ s.cfe.busy = false
  /-- TO is set only as a reply phase ends, and cleared at every acceptance (42_dispatcher.md R164, R168, R171). DEDUCED,
  against R27's sentence that BUSY with TO can occur (notes/assumptions/16.md). -/
  timeoutEnds : s.cfe.busy = true → s.cfe.statusTo = false
  /-- The receive queue is within its capacity (42_dispatcher.md R161; past an overflow, notes/assumptions/5.md). -/
  queue : s.rxq.length ≤ Config.params.rxqDepth

/-! Whole frames on the wire -/

/-- The bytes of the current frame that the transport has taken: `TXF[0..i-1]` in `TX(i)` (42_dispatcher.md R165). -/
def sentPrefix (c : Cfe) : List Byte :=
  match c.phase with
  | .idle => []
  | .tx i => c.txf.toList.take i.val
  | .rx _ => []

/-- Everything the transport has taken is whole frames of five bytes, then the part of the current frame that it has taken
so far (41_frame_build.md R140). -/
def WholeFrames (s : State) : Prop :=
  ∃ frames : List (Slots Byte), s.txlog = (frames.map Slots.toList).flatten ++ sentPrefix s.cfe

/-! What the host cannot tell apart -/

/-- Two states that differ at most in registers that mean nothing in their phase: `CUR_OP` and `CUR_LEN` while IDLE
(10_state.md R29), `TMR` outside a reply phase (R30, 42_dispatcher.md R166). -/
def HiddenEq (s t : State) : Prop :=
  s.rxq = t.rxq ∧ s.txlog = t.txlog ∧ s.script = t.script ∧ s.cycle = t.cycle ∧
  match s.cfe.phase with
  | .idle => { s.cfe with curOp := t.cfe.curOp, curLen := t.cfe.curLen, tmr := t.cfe.tmr } = t.cfe
  | .tx _ => { s.cfe with tmr := t.cfe.tmr } = t.cfe
  | .rx _ => s.cfe = t.cfe

/-- Two states that run the same transaction, one as SINGLE_BYTE_CMD and one as TRANSACT 1: they differ in `RES`, `RESV`
and `CUR_OP` alone (30_encoding.md R89). -/
def SameTransaction (s t : State) : Prop :=
  s.cfe.curOp = .sbc ∧ t.cfe.curOp = .xact ∧
  t = { s with cfe := { s.cfe with res := t.cfe.res, resv := t.cfe.resv, curOp := t.cfe.curOp } }

end Sys2Proof.Machine
end

