-- ==== Sys2Proof/Certificates/Slice0/Obligations.lean ====
section
/-! DEFINITION. The statements for the provers, from the numbered rules of spec/. -/

open Sys2Proof Sys2Proof.Machine

/-! Encoding -/

/-- 30_encoding.md R75, R88: the decoder reads back every well-formed command, with every operand. -/
def Obligations.DecodeOfEncodeIsTheCommand : Prop :=
  ∀ i : Instr, i.wellFormed = true → decode (encode i) = .ok i

/-- 30_encoding.md R70 to R76: a decoded word is the encoding of its command, so no bit of a word is dropped. -/
def Obligations.EncodeOfDecodeIsTheWord : Prop :=
  ∀ (cw : CommandWord) (i : Instr), decode cw = .ok i → encode i = cw ∧ i.wellFormed = true

/-- 30_encoding.md R77: `Legal(cw)`, written out, is what the decoder accepts and what the port `rx_flush` tests. -/
def Obligations.DecoderAcceptsExactlyTheLegalWords : Prop :=
  ∀ cw : CommandWord,
    let op := cw.extractLsb' 60 4
    let len := cw.extractLsb' 56 4
    let opc := cw.extractLsb' 48 8
    let rsv := cw.extractLsb' 32 16
    let arg := cw.extractLsb' 0 32
    let isLegal : Prop := rsv = 0 ∧
      ((op ∈ [0x0#4, 0x1#4, 0x7#4, 0xD#4] ∧ len = 0 ∧ opc = 0 ∧ arg = 0) ∨
       (op ∈ [0x2#4, 0x3#4, 0x5#4] ∧ len = 0) ∨
       (op = 0x4#4 ∧ len = 0 ∧ arg.extractLsb' 0 16 = 0) ∨
       (op ∈ [0x6#4, 0xA#4] ∧ len = 0 ∧ arg = 0) ∨
       (op ∈ [0x8#4, 0x9#4] ∧ len ∈ [0#4, 1#4, 2#4, 5#4] ∧ opc = 0 ∧ arg = 0) ∨
       (op ∈ [0xB#4, 0xC#4] ∧ len = 0 ∧ opc = 0))
    (legal cw = true ↔ isLegal) ∧ ((∃ i, decode cw = .ok i) ↔ isLegal)

/-- 30_encoding.md R90: a word is legal when it matches exactly one row of the opcode table and, where the row lists LEN
values, its LEN is one of them. -/
def Obligations.LegalWordMatchesExactlyOneTableRow : Prop :=
  ∀ cw : CommandWord,
    legal cw = true ↔
      ∃ r, tableRows.filter (fun q => q.matchesWord cw) = [r] ∧ r.listsLen cw = true

/-- 95_test_vectors.md: words written out there decode to the commands they stand for, one of every family. -/
def Obligations.WordsOfTheSpecDecode : Prop :=
  decode 0x2007000012345678 = .ok (.buildRaw 0x12 0x34 0x56 0x78 0x07) ∧
  decode 0x300100000015BE68 = .ok (.buildFreq 1425000 0x01) ∧
  decode 0x50BC000000B25A20 = .ok (.buildNvmwr 0x00B2 0x5A 0x20 0xBC) ∧
  decode 0x9200000000000000 = .ok (.transact 2) ∧
  decode 0xA081000000000000 = .ok (.singleByteCmd 0x81) ∧
  decode 0xB00000000015BE68 = .ok (.encFreq 1425000)

/-- 30_encoding.md R89: each pseudo-instruction stands for the listed command words. -/
def Obligations.PseudoInstructionsExpandToTheirWords : Prop :=
  (∀ addr opc, (Pseudo.nvmRead addr opc).words =
    [commandWord 0x4 0 opc 0 (addr ++ 0#16), 0x9200000000000000]) ∧
  (∀ addr data sib opc, (Pseudo.nvmWrite addr data sib opc).words =
    [commandWord 0x5 0 opc 0 (addr ++ data ++ sib), 0x9100000000000000]) ∧
  (∀ opc, (Pseudo.toggle opc).words = [commandWord 0xA 0 opc 0 0]) ∧
  (∀ f opc len, (Pseudo.setFreq f opc len).words = [commandWord 0x3 0 opc 0 f, commandWord 0x9 len 0 0 0]) ∧
  (∀ opc, (Pseudo.readFreq opc).words =
    [commandWord 0x6 0 opc 0 0, 0x9500000000000000, 0xD000000000000000])

/-! The step -/

/-- 42_dispatcher.md R163: a cycle that accepts a legal word performs its command in this cycle; around it the cycle ends
(arrivals of R161, and the model's script). -/
def Obligations.StepRunsTheDecodedCommand : Prop :=
  ∀ (s : State) (cw : CommandWord) (i : Instr), s.Accepts cw → decode cw = .ok i →
    step s = onNext (exec i s) (State.endCycle Config.params)

/-- 30_encoding.md R78: an illegal word sets ILL, clears TO, and does nothing else; nothing is sent, popped or flushed. -/
def Obligations.IllegalWordOnlySetsIll : Prop :=
  ∀ (s : State) (cw : CommandWord), s.Accepts cw → legal cw = false →
    step s = .next
      (({ s with cfe := { s.cfe with statusIll := true, statusTo := false } } : State).endCycle Config.params) ∧
    s.txValid = false ∧ s.rxPopPort = false ∧ s.rxFlushPort = false

/-- 60_exceptions.md R211, R212: every accepted word, legal or not, rewrites both conditions: ILL says whether it was
illegal, TO is cleared. -/
def Obligations.AcceptedWordRewritesTheConditions : Prop :=
  ∀ (s : State) (cw : CommandWord), s.Accepts cw →
    ∃ t, step s = .next t ∧ t.cfe.statusIll = !legal cw ∧ t.cfe.statusTo = false

/-- 70_reset_and_hazards.md R240, R241 and 10_state.md R36: a cycle with `rst = 1` gives every register its reset value, and
does nothing else; the reset state holds the same values. -/
def Obligations.ResetSetsEveryRegisterAndNothingElse : Prop :=
  let values : Cfe :=
    { txf := ⟨0x00, 0x00, 0x00, 0x00, 0x00⟩
      rxb := ⟨0x00, 0x00, 0x00, 0x00, 0x00⟩
      rxv := ⟨false, false, false, false, false⟩
      res := 0x00000000
      resv := false
      statusIll := false
      statusTo := false
      phase := .idle
      curOp := .send
      curLen := 0
      tmr := 0 }
  values.busy = false ∧ State.reset.cfe = values ∧
  ∀ s : State, s.inputs.rst = true →
    step s = .next (({ s with cfe := values } : State).endCycle Config.params) ∧
    s.cmdReady = false ∧ s.txValid = false ∧ s.rxPopPort = false ∧ s.rxFlushPort = false

/-- 70_reset_and_hazards.md R242: the cycle after a reset is ready for a command, and the CFE sends nothing on its own. -/
def Obligations.CycleAfterResetIsReady : Prop :=
  ∀ s : State, s.inputs.rst = true →
    ∃ t, step s = .next t ∧ t.cfe.phase = .idle ∧
      (t.inputs.rst = false →
        t.cmdReady = true ∧ t.txValid = false ∧
        (t.inputs.cmdValid = true → t.Accepts t.inputs.cmdWord) ∧
        (t.inputs.cmdValid = false → step t = .next (t.endCycle Config.params)))

/-- 42_dispatcher.md R163: while IDLE and with no command presented, no state changes. -/
def Obligations.IdleCycleWithoutCommandChangesNothing : Prop :=
  ∀ s : State, s.inputs.rst = false → s.cfe.phase = .idle → s.inputs.cmdValid = false →
    step s = .next (s.endCycle Config.params)

/-- 42_dispatcher.md R161: the transport follows the output ports: a handshake appends the offered byte to `TXLOG`; `RXQ`
is flushed or popped, then the bytes of the cycle arrive behind. Premise: no overflow (92_eei_decisions.md D28). -/
def Obligations.TransportFollowsThePorts : Prop :=
  ∀ s t : State, s.NoOverflow → step s = .next t →
    t.txlog = (if s.txValid && s.inputs.txReady then s.txlog ++ [s.txData] else s.txlog) ∧
    t.rxq = (if s.rxFlushPort then [] else if s.rxPopPort then s.rxq.tail else s.rxq) ++ s.inputs.arrivals

/-- 42_dispatcher.md R160, R163: while a command is in flight, the command port has no effect: a word presented then is not
accepted, and nothing cancels the command. -/
def Obligations.CommandPortHasNoEffectWhileBusy : Prop :=
  ∀ (s : State) (i : Inputs) (rest : List Inputs) (valid : Bool) (cw : CommandWord),
    s.script = i :: rest → s.cfe.busy = true →
    step s = step { s with script := { i with cmdValid := valid, cmdWord := cw } :: rest }

/-! Frame building -/

/-- 41_frame_build.md R132: NOP clears ILL and TO and changes nothing else; with any nonzero bit it is illegal. -/
def Obligations.NopClearsTheConditionsAlone : Prop :=
  decode 0x0000000000000000 = .ok .nop ∧
  (∀ s : State, exec .nop s =
    .next { s with cfe := { s.cfe with statusIll := false, statusTo := false } }) ∧
  (∀ cw : CommandWord, opField cw = 0x0 → cw ≠ 0 → legal cw = false)

/-- 41_frame_build.md R133: FRAME_CLEAR clears the whole frame. -/
def Obligations.FrameClearZeroesTheFrame : Prop :=
  decode 0x1000000000000000 = .ok .frameClear ∧
  ∀ s : State, exec .frameClear s =
    .next { s with cfe := { s.cfe with
      txf := ⟨0x00, 0x00, 0x00, 0x00, 0x00⟩, statusIll := false, statusTo := false } }

/-- 41_frame_build.md R134: BUILD_RAW builds the frame of its four payload bytes and opcode. -/
def Obligations.BuildRawWritesItsFiveBytes : Prop :=
  (∀ (arg : Word32) (opc : Byte), decode (commandWord 0x2 0 opc 0 arg) =
    .ok (.buildRaw (arg.extractLsb' 24 8) (arg.extractLsb' 16 8) (arg.extractLsb' 8 8) (arg.extractLsb' 0 8) opc)) ∧
  ∀ (p0 p1 p2 p3 opc : Byte) (s : State), exec (.buildRaw p0 p1 p2 p3 opc) s =
    .next { s with cfe := { s.cfe with
      txf := ⟨p0, p1, p2, p3, opc⟩, statusIll := false, statusTo := false } }

/-- 41_frame_build.md R135: BUILD_FREQ builds the frame of the BCD-packed frequency and the opcode; digits above the
eighth are dropped. -/
def Obligations.BuildFreqWritesTheBcdFrame : Prop :=
  (∀ (f : Word32) (opc : Byte), decode (commandWord 0x3 0 opc 0 f) = .ok (.buildFreq f opc)) ∧
  ∀ (f : Word32) (opc : Byte) (s : State), ∃ w : WireWord, w = bcdEncode f ∧
    exec (.buildFreq f opc) s =
      .next { s with cfe := { s.cfe with
        txf := ⟨w.w0, w.w1, w.w2, w.w3, opc⟩, statusIll := false, statusTo := false } } ∧
    isBcd w = true ∧ (bcdDecode w).toNat = f.toNat % 100000000

/-- 41_frame_build.md R136, R137: BUILD_NVMRD builds the NVM-read frame, address MSB first; a nonzero `ARG[15:0]` makes the
word illegal. -/
def Obligations.BuildNvmrdWritesTheReadFrame : Prop :=
  (∀ (addr : NvmAddr) (opc : Byte), decode (commandWord 0x4 0 opc 0 (addr ++ 0#16)) = .ok (.buildNvmrd addr opc)) ∧
  (∀ cw : CommandWord, opField cw = 0x4 → cw.extractLsb' 0 16 ≠ 0#16 → legal cw = false) ∧
  ∀ (addr : NvmAddr) (opc : Byte) (s : State), exec (.buildNvmrd addr opc) s =
    .next { s with cfe := { s.cfe with
      txf := ⟨addr.extractLsb' 8 8, addr.extractLsb' 0 8, 0x00, 0x00, opc⟩, statusIll := false, statusTo := false } }

/-- 41_frame_build.md R138: BUILD_NVMWR builds the NVM-write frame; the bytes are those of BUILD_RAW with the same ARG. -/
def Obligations.BuildNvmwrWritesTheWriteFrame : Prop :=
  (∀ (addr : NvmAddr) (data sib opc : Byte),
    decode (commandWord 0x5 0 opc 0 (addr ++ data ++ sib)) = .ok (.buildNvmwr addr data sib opc)) ∧
  (∀ (addr : NvmAddr) (data sib opc : Byte) (s : State), exec (.buildNvmwr addr data sib opc) s =
    .next { s with cfe := { s.cfe with
      txf := ⟨addr.extractLsb' 8 8, addr.extractLsb' 0 8, data, sib, opc⟩,
      statusIll := false, statusTo := false } }) ∧
  ∀ (arg : Word32) (opc : Byte) (s : State) (i j : Instr),
    decode (commandWord 0x5 0 opc 0 arg) = .ok i → decode (commandWord 0x2 0 opc 0 arg) = .ok j →
    exec i s = exec j s

/-- 41_frame_build.md R139: BUILD_TOGGLE builds the pure-toggle frame; with opcode 0x00 it is FRAME_CLEAR's frame. -/
def Obligations.BuildToggleWritesTheToggleFrame : Prop :=
  (∀ opc : Byte, decode (commandWord 0x6 0 opc 0 0) = .ok (.buildToggle opc)) ∧
  (∀ cw : CommandWord, opField cw = 0x6 → argField cw ≠ 0 → legal cw = false) ∧
  (∀ (opc : Byte) (s : State), exec (.buildToggle opc) s =
    .next { s with cfe := { s.cfe with
      txf := ⟨0x00, 0x00, 0x00, 0x00, opc⟩, statusIll := false, statusTo := false } }) ∧
  ∀ s : State, exec (.buildToggle 0x00) s = exec .frameClear s

/-- 41_frame_build.md R131: a cycle that accepts a legal word of the frame-building family clears ILL and TO, changes no
register but `TXF` besides, leaves the transport alone and drives none of its lines. -/
def Obligations.FrameBuildersTouchOnlyTheFrame : Prop :=
  ∀ (s : State) (cw : CommandWord), s.Accepts cw → legal cw = true → (opField cw).toNat ≤ 6 →
    ∃ (i : Instr) (f : Slots Byte), decode cw = .ok i ∧
      exec i s = .next { s with cfe := { s.cfe with txf := f, statusIll := false, statusTo := false } } ∧
      s.txValid = false ∧ s.rxPopPort = false ∧ s.rxFlushPort = false

/-! The codec -/

/-- 40_bcd_codec.md R101: nibble by nibble, `BcdEncode(x)` is the low eight decimal digits of `x`, most significant first,
and always BCD. -/
def Obligations.BcdEncodeGivesTheLowEightDigits : Prop :=
  ∀ x : Word32,
    let d (k : Nat) : Nat := x.toNat % 100000000 / 10 ^ k % 10
    let w := bcdEncode x
    ((w.w0.extractLsb' 4 4).toNat = d 7 ∧ (w.w0.extractLsb' 0 4).toNat = d 6) ∧
    ((w.w1.extractLsb' 4 4).toNat = d 5 ∧ (w.w1.extractLsb' 0 4).toNat = d 4) ∧
    ((w.w2.extractLsb' 4 4).toNat = d 3 ∧ (w.w2.extractLsb' 0 4).toNat = d 2) ∧
    ((w.w3.extractLsb' 4 4).toNat = d 1 ∧ (w.w3.extractLsb' 0 4).toNat = d 0) ∧
    isBcd w = true

/-- 40_bcd_codec.md R102: `BcdDecode(w)` is the sum of `(10 * high + low) * 100^(3-j)` over the bytes, each nibble at its
plain value, BCD or not. -/
def Obligations.BcdDecodeIsTheWeightedSum : Prop :=
  ∀ w : WireWord,
    let v (b : Byte) : Nat := 10 * (b.extractLsb' 4 4).toNat + (b.extractLsb' 0 4).toNat
    (bcdDecode w).toNat = v w.w0 * 100 ^ 3 + v w.w1 * 100 ^ 2 + v w.w2 * 100 + v w.w3

/-- 40_bcd_codec.md R103: the range of `BcdDecode`; the maximum is reached; two non-BCD words can decode to one value. -/
def Obligations.BcdDecodeStaysInRange : Prop :=
  (∀ w : WireWord, isBcd w = true → (bcdDecode w).toNat ≤ 99999999) ∧
  (∀ w : WireWord, bcdValue w ≤ 166666665 ∧ (bcdDecode w).toNat = bcdValue w) ∧
  bcdDecode ⟨0xFF, 0xFF, 0xFF, 0xFF⟩ = 0x09EF21A9 ∧
  (∃ v w : WireWord, v ≠ w ∧ isBcd v = false ∧ isBcd w = false ∧ bcdDecode v = bcdDecode w) ∧
  bcdDecode ⟨0x00, 0x00, 0x00, 0x0A⟩ = 10 ∧ bcdDecode ⟨0x00, 0x00, 0x00, 0x10⟩ = 10

/-- 40_bcd_codec.md R104: decode after encode is the value modulo 10^8. -/
def Obligations.DecodeOfEncodeIsModuloTenToTheEighth : Prop :=
  ∀ x : Word32, (bcdDecode (bcdEncode x)).toNat = x.toNat % 100000000 ∧
    (x.toNat < 100000000 → bcdDecode (bcdEncode x) = x)

/-- 40_bcd_codec.md R105: encode after decode is the identity exactly on the BCD words. -/
def Obligations.EncodeOfDecodeIsIdentityExactlyOnBcd : Prop :=
  ∀ w : WireWord, bcdEncode (bcdDecode w) = w ↔ isBcd w = true

/-- 20_memory.md R55: the big-endian mapping of a 32-bit value to four bytes loses nothing, either way. -/
def Obligations.WordAndWireBytesMatchBigEndian : Prop :=
  (∀ v : Word32, wordOfWire (wireOfWord v) = v) ∧ (∀ w : WireWord, wireOfWord (wordOfWire w) = w) ∧
  ∀ w : WireWord, (wordOfWire w).toNat =
    w.w0.toNat * 2 ^ 24 + w.w1.toNat * 2 ^ 16 + w.w2.toNat * 2 ^ 8 + w.w3.toNat

/-- 40_bcd_codec.md R107: ENC_FREQ leaves the wire word of its operand in `RES`, valid, and changes nothing else. -/
def Obligations.EncFreqLeavesTheWireWord : Prop :=
  (∀ f : Word32, decode (commandWord 0xB 0 0 0 f) = .ok (.encFreq f)) ∧
  (∀ (f : Word32) (s : State), ∃ w : WireWord, w = bcdEncode f ∧
    exec (.encFreq f) s =
      .next { s with cfe := { s.cfe with
        res := w.w0 ++ w.w1 ++ w.w2 ++ w.w3, resv := true, statusIll := false, statusTo := false } }) ∧
  wordOfWire (bcdEncode 0) = 0x00000000 ∧ wordOfWire (bcdEncode 99999999) = 0x99999999 ∧
  wordOfWire (bcdEncode 100000000) = 0x00000000 ∧ wordOfWire (bcdEncode 0xFFFFFFFF) = 0x94967295 ∧
  wordOfWire (bcdEncode 1425000) = 0x01425000

/-- 40_bcd_codec.md R108: DEC_FREQ leaves the value of its wire word in `RES`, valid, and changes nothing else. -/
def Obligations.DecFreqLeavesTheValue : Prop :=
  (∀ w : Word32, decode (commandWord 0xC 0 0 0 w) = .ok (.decFreq w)) ∧
  (∀ (w : Word32) (s : State), exec (.decFreq w) s =
    .next { s with cfe := { s.cfe with
      res := bcdDecode ⟨w.extractLsb' 24 8, w.extractLsb' 16 8, w.extractLsb' 8 8, w.extractLsb' 0 8⟩,
      resv := true, statusIll := false, statusTo := false } }) ∧
  bcdDecode (wireOfWord 0x00000000) = 0 ∧ bcdDecode (wireOfWord 0x99999999) = 99999999 ∧
  bcdDecode (wireOfWord 0x0000000A) = 10 ∧ bcdDecode (wireOfWord 0xFFFFFFFF) = 166666665 ∧
  bcdDecode (wireOfWord 0x000000A0) = 100 ∧ bcdDecode (wireOfWord 0x01425000) = 1425000

/-- 40_bcd_codec.md R109: PARSE_FREQ_REPLY decodes the first four reply slots; `RESV` is the conjunction of their flags. -/
def Obligations.ParseFreqReplyDecodesTheFirstFourSlots : Prop :=
  decode 0xD000000000000000 = .ok .parseFreqReply ∧
  ∀ s : State, exec .parseFreqReply s =
    .next { s with cfe := { s.cfe with
      res := bcdDecode ⟨s.cfe.rxb.get 0, s.cfe.rxb.get 1, s.cfe.rxb.get 2, s.cfe.rxb.get 3⟩,
      resv := s.cfe.rxv.get 0 && s.cfe.rxv.get 1 && s.cfe.rxv.get 2 && s.cfe.rxv.get 3,
      statusIll := false, statusTo := false } }

/-! The dispatcher, cycle by cycle -/

/-- 42_dispatcher.md R164: `AcceptSend`. The receive queue is flushed, ILL and TO are cleared, the command is recorded, and
`PHASE` is `TX(0)`; SINGLE_BYTE_CMD also loads its frame and clears `RES`. No byte is offered in the accept cycle. -/
def Obligations.AcceptSendStartsTheFrame : Prop :=
  (decode 0x7000000000000000 = .ok .sendFrame ∧
    ∀ s : State, exec .sendFrame s =
      .next { s with rxq := [], cfe := { s.cfe with
        statusIll := false, statusTo := false, curOp := .send, curLen := 0, phase := .tx 0 } }) ∧
  (∀ len : BitVec 4, len ∈ [0#4, 1#4, 2#4, 5#4] →
    decode (commandWord 0x9 len 0 0 0) = .ok (.transact len) ∧
    ∀ s : State, exec (.transact len) s =
      .next { s with rxq := [], cfe := { s.cfe with
        statusIll := false, statusTo := false, curOp := .xact, curLen := len.setWidth 3, phase := .tx 0 } }) ∧
  (∀ opc : Byte, decode (commandWord 0xA 0 opc 0 0) = .ok (.singleByteCmd opc) ∧
    ∀ s : State, exec (.singleByteCmd opc) s =
      .next { s with rxq := [], cfe := { s.cfe with
        statusIll := false, statusTo := false, curOp := .sbc, curLen := 1,
        txf := ⟨0x00, 0x00, 0x00, 0x00, opc⟩, res := 0x00000000, resv := false, phase := .tx 0 } }) ∧
  ∀ (s : State) (cw : CommandWord), s.Accepts cw → legal cw = true → opField cw ∈ [0x7#4, 0x9#4, 0xA#4] →
    s.rxFlushPort = true ∧ s.txValid = false

/-- 42_dispatcher.md R171 (the accept cycle), R177: READ_REPLY clears the reply registers and enters slot 0, or is complete
at once with length 0; it does not flush. -/
def Obligations.AcceptReadStartsTheReplyPhase : Prop :=
  (∀ len : BitVec 4, len ∈ [0#4, 1#4, 2#4, 5#4] →
    decode (commandWord 0x8 len 0 0 0) = .ok (.readReply len) ∧
    ∀ s : State, exec (.readReply len) s =
      .next { s with cfe := { s.cfe with
        statusIll := false, statusTo := false, curOp := .read, curLen := len.setWidth 3,
        rxb := ⟨0x00, 0x00, 0x00, 0x00, 0x00⟩, rxv := ⟨false, false, false, false, false⟩, tmr := 0,
        phase := if len = 0 then .idle else .rx 0 } }) ∧
  ∀ (s : State) (cw : CommandWord), s.Accepts cw → opField cw = 0x8 →
    s.rxFlushPort = false ∧ s.rxPopPort = false

/-- 30_encoding.md R72, R78: READ_REPLY and TRANSACT with another length are illegal words, and as terms they do what
accepting those words does (the model's choice for a term that is no instruction, notes/assumptions/10.md). -/
def Obligations.OtherReplyLengthsAreIllegal : Prop :=
  ∀ (len : BitVec 4), len ∉ [0#4, 1#4, 2#4, 5#4] → ∀ s : State,
    legal (commandWord 0x8 len 0 0 0) = false ∧ legal (commandWord 0x9 len 0 0 0) = false ∧
    exec (.readReply len) s = .next { s with cfe := { s.cfe with statusIll := true, statusTo := false } } ∧
    exec (.transact len) s = .next { s with cfe := { s.cfe with statusIll := true, statusTo := false } }

/-- 42_dispatcher.md R165, R166: `TxStep(i)`. Byte `i` is offered; nothing changes until the transport takes it; then the
next byte is due, or the frame is complete, or the reply phase starts with `RXB`, `RXV` and `TMR` cleared. -/
def Obligations.TxStepOffersOneByte : Prop :=
  ∀ (s : State) (i : Fin 5), s.inputs.rst = false → s.cfe.phase = .tx i →
    let taken := s.txlog ++ [s.cfe.txf.get i]
    s.txValid = true ∧ s.txData = s.cfe.txf.get i ∧
    (s.inputs.txReady = false → step s = .next (s.endCycle Config.params)) ∧
    (s.inputs.txReady = true →
      (∀ j : Fin 5, j.val = i.val + 1 →
        step s = .next (({ s with txlog := taken, cfe := { s.cfe with phase := .tx j } } : State).endCycle
          Config.params)) ∧
      (i = 4 → s.cfe.curOp = .send →
        step s = .next (({ s with txlog := taken, cfe := { s.cfe with phase := .idle } } : State).endCycle
          Config.params)) ∧
      (i = 4 → s.cfe.curOp ≠ .send →
        step s = .next (({ s with txlog := taken, cfe := { s.cfe with
          rxb := ⟨0x00, 0x00, 0x00, 0x00, 0x00⟩, rxv := ⟨false, false, false, false, false⟩, tmr := 0,
          phase := if s.cfe.curLen = 0 then .idle else .rx 0 } } : State).endCycle Config.params)))

/-- 42_dispatcher.md R167: `RxStep(k)` with a byte available: it is popped into slot `k`, whatever `tick` says; the next slot
starts with a fresh timer, or the reply phase ends (R169). -/
def Obligations.RxStepTakesAnAvailableByte : Prop :=
  ∀ (s : State) (k : Fin 5) (b : Byte) (q : List Byte),
    s.inputs.rst = false → s.cfe.phase = .rx k → s.rxq = b :: q →
    s.rxPopPort = true ∧
    (∀ j : Fin 5, j.val = k.val + 1 → k.val + 1 ≠ s.cfe.curLen.toNat →
      step s = .next (({ s with rxq := q, cfe := { s.cfe with
        rxb := s.cfe.rxb.set k b, rxv := s.cfe.rxv.set k true, tmr := 0, phase := .rx j } } : State).endCycle
          Config.params)) ∧
    (k.val + 1 = s.cfe.curLen.toNat →
      step s = .next (({ s with rxq := q, cfe := { s.cfe with
        rxb := s.cfe.rxb.set k b, rxv := s.cfe.rxv.set k true, tmr := 0, phase := .idle
        res := if s.cfe.curOp = .sbc then b.setWidth 32 else s.cfe.res
        resv := if s.cfe.curOp = .sbc then true else s.cfe.resv } } : State).endCycle Config.params))

/-- 42_dispatcher.md R168: `RxStep(k)` with no byte available: a tick is counted, the `T_TIMEOUT`-th sets TO and ends the reply
phase (R169), and without a tick nothing changes. Premise: the timer is below its ceiling (10_state.md R30). -/
def Obligations.RxStepCountsTicksToTheCeiling : Prop :=
  ∀ (s : State) (k : Fin 5),
    s.inputs.rst = false → s.cfe.phase = .rx k → s.rxq = [] → s.cfe.tmr < Config.params.tTimeout →
    s.rxPopPort = false ∧
    (s.inputs.tick = false → step s = .next (s.endCycle Config.params)) ∧
    (s.inputs.tick = true → s.cfe.tmr + 1 ≠ Config.params.tTimeout →
      step s = .next (({ s with cfe := { s.cfe with tmr := s.cfe.tmr + 1 } } : State).endCycle Config.params)) ∧
    (s.inputs.tick = true → s.cfe.tmr + 1 = Config.params.tTimeout →
      step s = .next (({ s with cfe := { s.cfe with
        statusTo := true, phase := .idle
        res := if s.cfe.curOp = .sbc then 0x00000000 else s.cfe.res
        resv := if s.cfe.curOp = .sbc then false else s.cfe.resv } } : State).endCycle Config.params))

/-- 42_dispatcher.md R169: `Finish()`: a cycle that leaves the reply phase (no reset) goes to IDLE; SINGLE_BYTE_CMD leaves its
reply byte in `RES`, valid, or 0, not valid, after a timeout; the other commands leave `RES` and `RESV` unchanged. -/
def Obligations.FinishDeliversTheSingleByte : Prop :=
  ∀ (s t : State) (k : Fin 5), s.inputs.rst = false → s.cfe.phase = .rx k → step s = .next t →
    (∀ j, t.cfe.phase ≠ .rx j) →
    t.cfe.phase = .idle ∧
    (s.cfe.curOp = .sbc → ∀ b q, s.rxq = b :: q → t.cfe.res = b.setWidth 32 ∧ t.cfe.resv = true) ∧
    (s.cfe.curOp = .sbc → s.rxq = [] → t.cfe.res = 0x00000000 ∧ t.cfe.resv = false) ∧
    (s.cfe.curOp ≠ .sbc → t.cfe.res = s.cfe.res ∧ t.cfe.resv = s.cfe.resv)

/-! The dispatcher, whole commands -/

/-- 42_dispatcher.md R165, R178, 70_reset_and_hazards.md R251: the transmit phase sends one byte in each cycle the transport
is ready, in index order, whatever the pattern of readiness; while a byte is left it stays in the transmit phase. -/
def Obligations.TransmitSendsOneByteEachReadyCycle : Prop :=
  ∀ (s : State) (i : Fin 5) (n : Nat), s.cfe.phase = .tx i → s.NoReset n →
    let r := s.countInputs (·.txReady) 0 n
    i.val + r < 5 →
    ∃ (t : State) (j : Fin 5), run n s = .next t ∧ j.val = i.val + r ∧
      t.cfe = { s.cfe with phase := .tx j } ∧
      t.txlog = s.txlog ++ (s.cfe.txf.toList.drop i.val).take r

/-- 42_dispatcher.md R170: SEND_FRAME, accepted, with the transport ready in the next five cycles, sends the five bytes of
`TXF` in order and is IDLE again in cycle 6; no register changes but STATUS, `CUR_OP` and `CUR_LEN`. -/
def Obligations.SendFrameSendsTheFrameInSixCycles : Prop :=
  ∀ s : State, s.Accepts 0x7000000000000000 → s.NoReset 6 →
    (∀ j < 5, (s.inputsAt (j + 1)).txReady = true) →
    ∃ t : State, run 6 s = .next t ∧
      t.txlog = s.txlog ++ s.cfe.txf.toList ∧
      t.cfe = { s.cfe with
        statusIll := false, statusTo := false, curOp := .send, curLen := 0, phase := .idle }

/-- 42_dispatcher.md R174: while a reply phase lasts, and when it ends, the `m` filled slots hold the first `m` bytes that left
the queue, in queue order, the other slots hold no data, and TO is 1 exactly when `m` is less than the length. The
premise `Inv` gives TO = 0 at the start (notes/assumptions/16.md). -/
def Obligations.ReplyPhaseFillsSlotsInQueueOrder : Prop :=
  ∀ (s t : State) (n : Nat), Inv s → s.cfe.phase = .rx 0 → s.NoReset n → InReply n s → run n s = .next t →
    let popped := poppedBytes n s
    let m := popped.length
    m ≤ s.cfe.curLen.toNat ∧
    t.cfe.rxb.toList = popped ++ List.replicate (5 - m) 0x00 ∧
    t.cfe.rxv.toList = List.replicate m true ++ List.replicate (5 - m) false ∧
    (∀ k, t.cfe.phase = .rx k → k.val = m ∧ t.cfe.statusTo = false) ∧
    ((∀ k, t.cfe.phase ≠ .rx k) →
      t.cfe.phase = .idle ∧ (t.cfe.statusTo = true ↔ m < s.cfe.curLen.toNat))

/-- 42_dispatcher.md R168, R175: a slot to which no byte comes waits while fewer than `T_TIMEOUT` ticks have come, and ends,
with TO set, in the very cycle of the `T_TIMEOUT`-th. -/
def Obligations.SlotTimesOutAtTheCeilingthTick : Prop :=
  ∀ (s : State) (k : Fin 5) (n : Nat),
    s.cfe.phase = .rx k → s.cfe.tmr = 0 → s.rxq = [] → s.NoReset (n + 1) → s.NoArrival n →
    let ticks := s.countInputs (·.tick) 0 n
    ticks < Config.params.tTimeout →
    (∃ t : State, run n s = .next t ∧ t.cfe = { s.cfe with tmr := ticks } ∧ t.rxq = []) ∧
    ((s.inputsAt n).tick = true → ticks + 1 = Config.params.tTimeout →
      ∃ t : State, run (n + 1) s = .next t ∧ t.cfe.phase = .idle ∧ t.cfe.statusTo = true ∧
        t.cfe.rxb = s.cfe.rxb ∧ t.cfe.rxv = s.cfe.rxv)

/-- 70_reset_and_hazards.md R251: a reply phase whose bytes are all queued takes one cycle a byte: it ends with the bytes in
the slots, the rest of the queue in place, and TO clear. The premise `Inv` gives TO = 0 at the start
(notes/assumptions/16.md). -/
def Obligations.QueuedReplyTakesOneCycleEachByte : Prop :=
  ∀ (s : State) (n : Nat), Inv s → s.cfe.phase = .rx 0 → n = s.cfe.curLen.toNat → n ≤ s.rxq.length →
    s.NoReset n → s.NoArrival n →
    ∃ t : State, run n s = .next t ∧ t.cfe.phase = .idle ∧ t.cfe.statusTo = false ∧
      t.rxq = s.rxq.drop n ∧ t.txlog = s.txlog ∧ t.cfe.txf = s.cfe.txf ∧
      t.cfe.rxb.toList = s.rxq.take n ++ List.replicate (5 - n) 0x00 ∧
      t.cfe.rxv.toList = List.replicate n true ++ List.replicate (5 - n) false

/-- 42_dispatcher.md R172, 70_reset_and_hazards.md R251: TRANSACT, accepted, with the transport ready in the next five cycles
and the reply arriving in the cycle the fifth byte is taken, sends the frame, collects the reply and is IDLE again in cycle
`6 + LEN`, TO clear; `TXF`, `RES` and `RESV` are unchanged. With length 0 the bytes that arrive stay queued. -/
def Obligations.TransactSendsTheFrameAndCollectsTheReply : Prop :=
  ∀ (s : State) (len : BitVec 4) (n : Nat) (reply : List Byte),
    len ∈ [0#4, 1#4, 2#4, 5#4] → n = len.toNat → s.Accepts (commandWord 0x9 len 0 0 0) → s.NoReset (6 + n) →
    (∀ j < 5, (s.inputsAt (j + 1)).txReady = true) →
    (s.inputsAt 5).arrivals = reply → n ≤ reply.length → reply.length ≤ 5 →
    (∀ j < 6 + n, j ≠ 5 → (s.inputsAt j).arrivals = []) →
    ∃ t : State, run (6 + n) s = .next t ∧
      t.txlog = s.txlog ++ s.cfe.txf.toList ∧ t.rxq = reply.drop n ∧
      t.cfe.rxb.toList = reply.take n ++ List.replicate (5 - n) 0x00 ∧
      t.cfe.rxv.toList = List.replicate n true ++ List.replicate (5 - n) false ∧
      t.cfe = { s.cfe with
        statusIll := false, statusTo := false, curOp := .xact, curLen := len.setWidth 3, phase := .idle, tmr := 0,
        rxb := t.cfe.rxb, rxv := t.cfe.rxv }

/-- 42_dispatcher.md R173, 70_reset_and_hazards.md R251: SINGLE_BYTE_CMD, accepted, with the transport ready in the next five
cycles and the reply byte arriving in the cycle the fifth byte is taken, sends `[0, 0, 0, 0, opc]` and is IDLE again in
cycle 7 with the byte in `RES`, valid, and in slot 0, TO clear. -/
def Obligations.SingleByteCommandReturnsItsReply : Prop :=
  ∀ (s : State) (opc b : Byte), s.Accepts (commandWord 0xA 0 opc 0 0) → s.NoReset 7 →
    (∀ j < 5, (s.inputsAt (j + 1)).txReady = true) →
    (s.inputsAt 5).arrivals = [b] → (∀ j < 7, j ≠ 5 → (s.inputsAt j).arrivals = []) →
    ∃ t : State, run 7 s = .next t ∧
      t.txlog = s.txlog ++ [0x00, 0x00, 0x00, 0x00, opc] ∧ t.rxq = [] ∧
      t.cfe =
        { txf := ⟨0x00, 0x00, 0x00, 0x00, opc⟩
          rxb := ⟨b, 0x00, 0x00, 0x00, 0x00⟩
          rxv := ⟨true, false, false, false, false⟩
          res := b.setWidth 32
          resv := true
          statusIll := false
          statusTo := false
          phase := .idle
          curOp := .sbc
          curLen := 1
          tmr := 0 }

/-- 42_dispatcher.md R180, in its bounded form: a command in flight ends within `n + m` cycles when the transport is ready in
five of the first `n` and `5 * T_TIMEOUT` ticks come in the next `m`; both conditions are premises. -/
def Obligations.CommandEndsWithReadinessAndTicks : Prop :=
  ∀ (s : State) (n m : Nat), Inv s → s.cfe.busy = true → s.NoReset (n + m) →
    5 ≤ s.countInputs (·.txReady) 0 n →
    5 * Config.params.tTimeout ≤ s.countInputs (·.tick) n m →
    ∃ j ≤ n + m, ∃ t : State, run j s = .next t ∧ t.cfe.phase = .idle

/-- 30_encoding.md R89: `TOGGLE opc` and `BUILD_TOGGLE opc ; TRANSACT 1` start the same transaction, and every later cycle keeps
it the same: the same bytes sent, the same reply slots; `RES`, `RESV` and `CUR_OP` alone differ. -/
def Obligations.ToggleIsBuildToggleThenTransact : Prop :=
  (∀ (s b x y : State) (opc : Byte), exec (.buildToggle opc) s = .next b → exec (.transact 1) b = .next y →
    exec (.singleByteCmd opc) s = .next x → SameTransaction x y) ∧
  ∀ (s t s' : State), SameTransaction s t → s.cfe.busy = true → s.inputs.rst = false → step s = .next s' →
    ∃ t', step t = .next t' ∧ SameTransaction s' t'

/-! Invariants -/

/-- The invariant of the registers (10_state.md R20, R24, R27 to R30) holds at reset. It also says that the receive queue is
within its capacity, which rests on the model's empty queue at reset (notes/assumptions/4.md), and its clause `timeoutEnds`
is the one of notes/assumptions/16.md. -/
def Obligations.InvariantHoldsAtReset : Prop := Inv State.reset

/-- 10_state.md R20, R24, R25, R28 to R30: every step keeps the invariant of the registers, from every state that meets it.
Its clause `status` is R27's two exclusions (ILL with TO, ILL with BUSY). Two clauses are not the spec's words. `timeoutEnds`
(no TO while BUSY) is DEDUCED from 42_dispatcher.md R164, R168 and R171 against R27's sentence that all other combinations can
occur (notes/assumptions/16.md). `queue` is R161's capacity, kept past an overflow by the model's cut
(notes/assumptions/5.md). -/
def Obligations.EveryStepKeepsTheInvariant : Prop :=
  ∀ s t : State, Inv s → step s = .next t → Inv t

/-- 60_exceptions.md R210, R214: no condition is fatal: from every state that meets the invariant the machine goes on. -/
def Obligations.MachineNeverStops : Prop :=
  ∀ s : State, Inv s → ∃ t, step s = .next t

/-- 41_frame_build.md R140: at reset the wire holds whole frames (none; the model's empty `TXLOG`, notes/assumptions/4.md). -/
def Obligations.WireHoldsWholeFramesAtReset : Prop := WholeFrames State.reset

/-- 41_frame_build.md R140, 20_memory.md R58: every step that is no reset keeps the wire at whole frames of five bytes and the
sent part of the current one. -/
def Obligations.EveryStepKeepsWholeFrames : Prop :=
  ∀ s t : State, s.inputs.rst = false → WholeFrames s → step s = .next t → WholeFrames t

/-! Whole-machine rules -/

/-- 10_state.md R22: only the frame-building commands and SINGLE_BYTE_CMD write `TXF` (and reset). -/
def Obligations.OnlyBuildersAndSingleByteWriteTxf : Prop :=
  ∀ s t : State, s.inputs.rst = false → step s = .next t → t.cfe.txf ≠ s.cfe.txf →
    ∃ cw, s.Accepts cw ∧ legal cw = true ∧
      opField cw ∈ [0x1#4, 0x2#4, 0x3#4, 0x4#4, 0x5#4, 0x6#4, 0xA#4]

/-- 10_state.md R23, R24: `RXB` and `RXV` are written only by the reply setup (READ_REPLY accepted, or the last frame byte of a
command with a reply phase taken) and by a byte that arrives for the slot of the reply phase (and reset). -/
def Obligations.OnlyTheReplyPhaseWritesTheReplyRegisters : Prop :=
  ∀ s t : State, s.inputs.rst = false → step s = .next t →
    (t.cfe.rxb ≠ s.cfe.rxb ∨ t.cfe.rxv ≠ s.cfe.rxv) →
    (∃ cw, s.Accepts cw ∧ legal cw = true ∧ opField cw = 0x8) ∨
    (s.cfe.phase = .tx 4 ∧ s.inputs.txReady = true ∧ s.cfe.curOp ≠ .send) ∨
    (∃ k b q, s.cfe.phase = .rx k ∧ s.rxq = b :: q ∧
      t.cfe.rxb = s.cfe.rxb.set k b ∧ t.cfe.rxv = s.cfe.rxv.set k true)

/-- 10_state.md R25, R26: `RES` and `RESV` are written only by the codec commands and by SINGLE_BYTE_CMD, at acceptance and
at its finish (and reset). -/
def Obligations.OnlyCodecAndSingleByteWriteRes : Prop :=
  ∀ s t : State, s.inputs.rst = false → step s = .next t →
    (t.cfe.res ≠ s.cfe.res ∨ t.cfe.resv ≠ s.cfe.resv) →
    (∃ cw, s.Accepts cw ∧ legal cw = true ∧ opField cw ∈ [0xA#4, 0xB#4, 0xC#4, 0xD#4]) ∨
    (s.cfe.curOp = .sbc ∧ t.cfe.phase = .idle ∧ ∃ k, s.cfe.phase = .rx k)

/-- 10_state.md R29: `CUR_OP` and `CUR_LEN` are written only when SEND_FRAME, READ_REPLY, TRANSACT or SINGLE_BYTE_CMD is
accepted (and by reset). -/
def Obligations.OnlyDispatcherCommandsWriteCurOpAndCurLen : Prop :=
  ∀ s t : State, s.inputs.rst = false → step s = .next t →
    (t.cfe.curOp ≠ s.cfe.curOp ∨ t.cfe.curLen ≠ s.cfe.curLen) →
    ∃ cw, s.Accepts cw ∧ legal cw = true ∧ opField cw ∈ [0x7#4, 0x8#4, 0x9#4, 0xA#4]

/-- 10_state.md R27, R28: `STATUS` packs BUSY, ILL and TO in bits 0 to 2, BUSY is `PHASE != IDLE`; R31 and 42_dispatcher.md R179:
`st_ill`, `st_to`, `res_out` and `resv_out` are the registers; byte `j` of `txf_out` and `rxb_out`, and flag `j` of `rxv_out`,
stand most significant first; `tx_data` is the byte that `PHASE` offers, and 0x00 while `tx_valid` is 0. -/
def Obligations.OutputPortsShowTheRegisters : Prop :=
  ∀ s : State,
    (s.outputs.stBusy = true ↔ s.cfe.phase ≠ .idle) ∧
    s.cfe.status[0] = s.outputs.stBusy ∧ s.cfe.status[1] = s.cfe.statusIll ∧ s.cfe.status[2] = s.cfe.statusTo ∧
    s.outputs.stIll = s.cfe.statusIll ∧ s.outputs.stTo = s.cfe.statusTo ∧
    s.outputs.resOut = s.cfe.res ∧ s.outputs.resvOut = s.cfe.resv ∧
    (∀ j : Fin 5, s.outputs.txfOut.extractLsb' (8 * (4 - j.val)) 8 = s.cfe.txf.get j ∧
      s.outputs.rxbOut.extractLsb' (8 * (4 - j.val)) 8 = s.cfe.rxb.get j ∧
      s.outputs.rxvOut.getLsbD (4 - j.val) = s.cfe.rxv.get j) ∧
    (∀ i : Fin 5, s.cfe.phase = .tx i → s.outputs.txValid = true → s.outputs.txData = s.cfe.txf.get i) ∧
    (s.outputs.txValid = false → s.outputs.txData = 0x00)

/-- 42_dispatcher.md R179: when each control output is 1, by `rst`, `PHASE`, the receive queue and the command port. `cmd_ready`,
`tx_valid` and `rx_pop` exclude each other, and so do `rx_flush` and each of the last two; `rx_flush` is 1 only in a cycle that
accepts, with `cmd_ready`. -/
def Obligations.ControlPortsFollowThePhase : Prop :=
  ∀ s : State,
    let out := s.outputs
    (out.cmdReady = true ↔ s.inputs.rst = false ∧ s.cfe.phase = .idle) ∧
    (s.inputs.cmdValid = true → (out.cmdReady = true ↔ s.Accepts s.inputs.cmdWord)) ∧
    (out.txValid = true ↔ s.inputs.rst = false ∧ ∃ i, s.cfe.phase = .tx i) ∧
    (out.rxPop = true ↔ s.inputs.rst = false ∧ (∃ k, s.cfe.phase = .rx k) ∧ s.rxq ≠ []) ∧
    (out.rxFlush = true ↔
      out.cmdReady = true ∧ s.inputs.cmdValid = true ∧ legal s.inputs.cmdWord = true ∧
        opField s.inputs.cmdWord ∈ [0x7#4, 0x9#4, 0xA#4]) ∧
    ¬ (out.txValid = true ∧ out.cmdReady = true) ∧ ¬ (out.rxPop = true ∧ out.cmdReady = true) ∧
    ¬ (out.rxPop = true ∧ out.txValid = true) ∧
    ¬ (out.rxPop = true ∧ out.rxFlush = true) ∧ ¬ (out.txValid = true ∧ out.rxFlush = true)

/-- 10_state.md R29, R35, 93_implementation_defined.md U16: `CUR_OP` and `CUR_LEN` while IDLE, and `TMR` outside a reply phase,
never show: the outputs agree now and after every further cycle. -/
def Obligations.HiddenRegistersNeverShow : Prop :=
  ∀ s t : State, HiddenEq s t →
    s.outputs = t.outputs ∧
    ∀ s', step s = .next s' → ∃ t', step t = .next t' ∧ HiddenEq s' t'
end

