-- ==== Sys2Proof/Laws/Codec.lean ====
section
/-! SUPPORT. The nibbles of a packed byte, and what the codec functions compute, as arithmetic. -/

namespace Sys2Proof.Machine

theorem hiNibble_le (b : Byte) : hiNibble b ≤ 15 := by
  have := b.isLt
  unfold hiNibble
  omega

theorem loNibble_le (b : Byte) : loNibble b ≤ 15 := by
  unfold loNibble
  omega

/-- The nibbles as bit slices, `b[7:4]` and `b[3:0]` (00_scope.md R8). -/
theorem extract_hi (b : Byte) : (b.extractLsb' 4 4).toNat = hiNibble b := by
  have := b.isLt
  simp only [BitVec.extractLsb'_toNat, hiNibble, Nat.shiftRight_eq_div_pow]
  omega

theorem extract_lo (b : Byte) : (b.extractLsb' 0 4).toNat = loNibble b := by
  simp [BitVec.extractLsb'_toNat, loNibble]

/-- A byte is its two nibbles. -/
theorem byte_eq_of_nibbles {a b : Byte} (hh : hiNibble a = hiNibble b) (hl : loNibble a = loNibble b) : a = b := by
  apply BitVec.eq_of_toNat_eq
  unfold hiNibble at hh
  unfold loNibble at hl
  omega

/-- Two digits packed into a byte, as a number (40_bcd_codec.md R101). -/
theorem toNat_packDigits {hi lo : Nat} (hh : hi < 16) (hl : lo < 16) : (packDigits hi lo).toNat = hi * 16 + lo := by
  have key : ∀ h : Fin 16, ∀ l : Fin 16, (packDigits h.val l.val).toNat = h.val * 16 + l.val := by decide
  exact key ⟨hi, hh⟩ ⟨lo, hl⟩

theorem hiNibble_packDigits {hi lo : Nat} (hh : hi < 16) (hl : lo < 16) : hiNibble (packDigits hi lo) = hi := by
  unfold hiNibble
  rw [toNat_packDigits hh hl]
  omega

theorem loNibble_packDigits {hi lo : Nat} (hh : hi < 16) (hl : lo < 16) : loNibble (packDigits hi lo) = lo := by
  unfold loNibble
  rw [toNat_packDigits hh hl]
  omega

theorem digit_lt (y k : Nat) : digit y k < 10 := Nat.mod_lt _ (by omega)

/-- What a wire word stands for, as a sum over its nibbles (40_bcd_codec.md R102). -/
theorem bcdValue_eq (w : WireWord) :
    bcdValue w =
      (hiNibble w.w0 * 10 + loNibble w.w0) * 1000000 + (hiNibble w.w1 * 10 + loNibble w.w1) * 10000 +
      (hiNibble w.w2 * 10 + loNibble w.w2) * 100 + (hiNibble w.w3 * 10 + loNibble w.w3) := by
  simp only [bcdValue, decodeByte, List.foldl]
  omega

/-- `BcdDecode` computes this number exactly: its cut to 32 bits "truncates nothing" (40_bcd_codec.md R103). -/
theorem toNat_bcdDecode (w : WireWord) : (bcdDecode w).toNat = bcdValue w := by
  have h0 := hiNibble_le w.w0
  have h1 := hiNibble_le w.w1
  have h2 := hiNibble_le w.w2
  have h3 := hiNibble_le w.w3
  have l0 := loNibble_le w.w0
  have l1 := loNibble_le w.w1
  have l2 := loNibble_le w.w2
  have l3 := loNibble_le w.w3
  have hv := bcdValue_eq w
  unfold bcdDecode
  rw [BitVec.toNat_ofNat]
  omega

/-- `IsBcd` as bounds on the nibbles (40_bcd_codec.md R100). -/
theorem isBcd_iff (w : WireWord) :
    isBcd w = true ↔
      (hiNibble w.w0 ≤ 9 ∧ loNibble w.w0 ≤ 9) ∧ (hiNibble w.w1 ≤ 9 ∧ loNibble w.w1 ≤ 9) ∧
      (hiNibble w.w2 ≤ 9 ∧ loNibble w.w2 ≤ 9) ∧ (hiNibble w.w3 ≤ 9 ∧ loNibble w.w3 ≤ 9) := by
  simp [isBcd, isBcdByte, and_assoc]

end Sys2Proof.Machine
end

