-- ==== Sys2Proof/Laws/Encoding.lean ====
section
/-! SUPPORT. The fields of a command word built from fields, and the bytes of a word built from bytes. -/

namespace Sys2Proof

section
variable (op len : BitVec 4) (opc : Byte) (rsv : BitVec 16) (arg : Word32)

@[simp] theorem opField_commandWord : opField (commandWord op len opc rsv arg) = op := by
  unfold opField commandWord
  ext i hi
  simp [BitVec.getElem_extractLsb']
  grind

@[simp] theorem lenField_commandWord : lenField (commandWord op len opc rsv arg) = len := by
  unfold lenField commandWord
  ext i hi
  simp [BitVec.getElem_extractLsb']
  grind

@[simp] theorem opcField_commandWord : opcField (commandWord op len opc rsv arg) = opc := by
  unfold opcField commandWord
  ext i hi
  simp [BitVec.getElem_extractLsb']
  grind

@[simp] theorem rsvField_commandWord : rsvField (commandWord op len opc rsv arg) = rsv := by
  unfold rsvField commandWord
  ext i hi
  simp [BitVec.getElem_extractLsb']
  grind

@[simp] theorem argField_commandWord : argField (commandWord op len opc rsv arg) = arg := by
  unfold argField commandWord
  ext i hi
  simp [BitVec.getElem_extractLsb']
  grind

end

/-- A word is built from its own fields: no bit lies outside them (30_encoding.md R70). -/
theorem commandWord_fields (cw : CommandWord) :
    commandWord (opField cw) (lenField cw) (opcField cw) (rsvField cw) (argField cw) = cw := by
  unfold commandWord opField lenField opcField rsvField argField
  apply BitVec.eq_of_getLsbD_eq
  intro i hi
  simp only [BitVec.getLsbD_append, BitVec.getLsbD_extractLsb']
  grind

section
variable (w0 w1 w2 w3 : Byte) (addr : NvmAddr) (low : BitVec 16)

@[simp] theorem wireOfWord_bytes : wireOfWord (w0 ++ w1 ++ w2 ++ w3) = ⟨w0, w1, w2, w3⟩ := by
  unfold wireOfWord
  congr 1 <;> (ext i hi; simp [BitVec.getElem_extractLsb']) <;> grind

/-- The bytes of an NVM address and a 16-bit value, as BUILD_NVMRD and BUILD_NVMWR lay them out (30_encoding.md R75). -/
@[simp] theorem argAddr_append : argAddr (addr ++ low) = addr := by
  unfold argAddr
  ext i hi
  simp [BitVec.getElem_extractLsb']
  grind

@[simp] theorem argLow_append : argLow (addr ++ low) = low := by
  unfold argLow
  ext i hi
  simp [BitVec.getElem_extractLsb']
  grind

@[simp] theorem argAddr_append_bytes : argAddr (addr ++ w2 ++ w3) = addr := by
  unfold argAddr
  ext i hi
  simp [BitVec.getElem_extractLsb']
  grind

@[simp] theorem wireOfWord_append_w2 : (wireOfWord (addr ++ w2 ++ w3)).w2 = w2 := by
  unfold wireOfWord
  ext i hi
  simp [BitVec.getElem_extractLsb']
  grind

@[simp] theorem wireOfWord_append_w3 : (wireOfWord (addr ++ w2 ++ w3)).w3 = w3 := by
  unfold wireOfWord
  ext i hi
  simp [BitVec.getElem_extractLsb']
  grind

/-- The encoder puts each command's operation in OP and zero in RSV (30_encoding.md R71, R74). -/
theorem rsvField_encode (i : Instr) : rsvField (encode i) = 0 := by
  cases i <;> simp [encode]

end

end Sys2Proof
end

