-- ==== Sys2Proof/Laws/State.lean ====
section
/-! SUPPORT. What each named update of the state leaves in each field, true by rfl; the fields of `cfe` follow by
projection. Later proofs cite these and unfold no record update. -/

namespace Sys2Proof.Machine

variable (s : State)

@[simp] theorem clearConditions_cfe : (s.clearConditions).cfe = { s.cfe with statusIll := false, statusTo := false } := rfl
@[simp] theorem clearConditions_rxq : (s.clearConditions).rxq = s.rxq := rfl
@[simp] theorem clearConditions_txlog : (s.clearConditions).txlog = s.txlog := rfl
@[simp] theorem clearConditions_script : (s.clearConditions).script = s.script := rfl
@[simp] theorem clearConditions_cycle : (s.clearConditions).cycle = s.cycle := rfl
@[simp] theorem clearConditions_inputs : (s.clearConditions).inputs = s.inputs := rfl

@[simp] theorem recordIllegal_cfe : (s.recordIllegal).cfe = { s.cfe with statusIll := true, statusTo := false } := rfl
@[simp] theorem recordIllegal_rxq : (s.recordIllegal).rxq = s.rxq := rfl
@[simp] theorem recordIllegal_txlog : (s.recordIllegal).txlog = s.txlog := rfl
@[simp] theorem recordIllegal_script : (s.recordIllegal).script = s.script := rfl
@[simp] theorem recordIllegal_cycle : (s.recordIllegal).cycle = s.cycle := rfl
@[simp] theorem recordIllegal_inputs : (s.recordIllegal).inputs = s.inputs := rfl

@[simp] theorem recordTimeout_cfe : (s.recordTimeout).cfe = { s.cfe with statusTo := true } := rfl
@[simp] theorem recordTimeout_rxq : (s.recordTimeout).rxq = s.rxq := rfl
@[simp] theorem recordTimeout_txlog : (s.recordTimeout).txlog = s.txlog := rfl
@[simp] theorem recordTimeout_script : (s.recordTimeout).script = s.script := rfl
@[simp] theorem recordTimeout_cycle : (s.recordTimeout).cycle = s.cycle := rfl
@[simp] theorem recordTimeout_inputs : (s.recordTimeout).inputs = s.inputs := rfl

@[simp] theorem loadTxf_cfe (f : Slots Byte) : (s.loadTxf f).cfe = { s.cfe with txf := f } := rfl
@[simp] theorem loadTxf_rxq (f : Slots Byte) : (s.loadTxf f).rxq = s.rxq := rfl
@[simp] theorem loadTxf_txlog (f : Slots Byte) : (s.loadTxf f).txlog = s.txlog := rfl
@[simp] theorem loadTxf_script (f : Slots Byte) : (s.loadTxf f).script = s.script := rfl
@[simp] theorem loadTxf_cycle (f : Slots Byte) : (s.loadTxf f).cycle = s.cycle := rfl
@[simp] theorem loadTxf_inputs (f : Slots Byte) : (s.loadTxf f).inputs = s.inputs := rfl

@[simp] theorem loadRes_cfe (v : Word32) (b : Bool) : (s.loadRes v b).cfe = { s.cfe with res := v, resv := b } := rfl
@[simp] theorem loadRes_rxq (v : Word32) (b : Bool) : (s.loadRes v b).rxq = s.rxq := rfl
@[simp] theorem loadRes_txlog (v : Word32) (b : Bool) : (s.loadRes v b).txlog = s.txlog := rfl
@[simp] theorem loadRes_script (v : Word32) (b : Bool) : (s.loadRes v b).script = s.script := rfl
@[simp] theorem loadRes_cycle (v : Word32) (b : Bool) : (s.loadRes v b).cycle = s.cycle := rfl
@[simp] theorem loadRes_inputs (v : Word32) (b : Bool) : (s.loadRes v b).inputs = s.inputs := rfl

@[simp] theorem setPhase_cfe (p : Phase) : (s.setPhase p).cfe = { s.cfe with phase := p } := rfl
@[simp] theorem setPhase_rxq (p : Phase) : (s.setPhase p).rxq = s.rxq := rfl
@[simp] theorem setPhase_txlog (p : Phase) : (s.setPhase p).txlog = s.txlog := rfl
@[simp] theorem setPhase_script (p : Phase) : (s.setPhase p).script = s.script := rfl
@[simp] theorem setPhase_cycle (p : Phase) : (s.setPhase p).cycle = s.cycle := rfl
@[simp] theorem setPhase_inputs (p : Phase) : (s.setPhase p).inputs = s.inputs := rfl

@[simp] theorem setCommand_cfe (op : CurOp) (len : BitVec 3) : (s.setCommand op len).cfe = { s.cfe with curOp := op, curLen := len } := rfl
@[simp] theorem setCommand_rxq (op : CurOp) (len : BitVec 3) : (s.setCommand op len).rxq = s.rxq := rfl
@[simp] theorem setCommand_txlog (op : CurOp) (len : BitVec 3) : (s.setCommand op len).txlog = s.txlog := rfl
@[simp] theorem setCommand_script (op : CurOp) (len : BitVec 3) : (s.setCommand op len).script = s.script := rfl
@[simp] theorem setCommand_cycle (op : CurOp) (len : BitVec 3) : (s.setCommand op len).cycle = s.cycle := rfl
@[simp] theorem setCommand_inputs (op : CurOp) (len : BitVec 3) : (s.setCommand op len).inputs = s.inputs := rfl

@[simp] theorem setTmr_cfe (n : Nat) : (s.setTmr n).cfe = { s.cfe with tmr := n } := rfl
@[simp] theorem setTmr_rxq (n : Nat) : (s.setTmr n).rxq = s.rxq := rfl
@[simp] theorem setTmr_txlog (n : Nat) : (s.setTmr n).txlog = s.txlog := rfl
@[simp] theorem setTmr_script (n : Nat) : (s.setTmr n).script = s.script := rfl
@[simp] theorem setTmr_cycle (n : Nat) : (s.setTmr n).cycle = s.cycle := rfl
@[simp] theorem setTmr_inputs (n : Nat) : (s.setTmr n).inputs = s.inputs := rfl

@[simp] theorem fillSlot_cfe (k : Fin 5) (b : Byte) : (s.fillSlot k b).cfe = { s.cfe with rxb := s.cfe.rxb.set k b, rxv := s.cfe.rxv.set k true } := rfl
@[simp] theorem fillSlot_rxq (k : Fin 5) (b : Byte) : (s.fillSlot k b).rxq = s.rxq := rfl
@[simp] theorem fillSlot_txlog (k : Fin 5) (b : Byte) : (s.fillSlot k b).txlog = s.txlog := rfl
@[simp] theorem fillSlot_script (k : Fin 5) (b : Byte) : (s.fillSlot k b).script = s.script := rfl
@[simp] theorem fillSlot_cycle (k : Fin 5) (b : Byte) : (s.fillSlot k b).cycle = s.cycle := rfl
@[simp] theorem fillSlot_inputs (k : Fin 5) (b : Byte) : (s.fillSlot k b).inputs = s.inputs := rfl

@[simp] theorem replySetup_cfe : (s.replySetup).cfe = { s.cfe with rxb := Slots.fill 0, rxv := Slots.fill false, tmr := 0 } := rfl
@[simp] theorem replySetup_rxq : (s.replySetup).rxq = s.rxq := rfl
@[simp] theorem replySetup_txlog : (s.replySetup).txlog = s.txlog := rfl
@[simp] theorem replySetup_script : (s.replySetup).script = s.script := rfl
@[simp] theorem replySetup_cycle : (s.replySetup).cycle = s.cycle := rfl
@[simp] theorem replySetup_inputs : (s.replySetup).inputs = s.inputs := rfl

@[simp] theorem resetCfe_cfe : (s.resetCfe).cfe = Cfe.reset := rfl
@[simp] theorem resetCfe_rxq : (s.resetCfe).rxq = s.rxq := rfl
@[simp] theorem resetCfe_txlog : (s.resetCfe).txlog = s.txlog := rfl
@[simp] theorem resetCfe_script : (s.resetCfe).script = s.script := rfl
@[simp] theorem resetCfe_cycle : (s.resetCfe).cycle = s.cycle := rfl
@[simp] theorem resetCfe_inputs : (s.resetCfe).inputs = s.inputs := rfl

@[simp] theorem rxFlush_cfe : (s.rxFlush).cfe = s.cfe := rfl
@[simp] theorem rxFlush_rxq : (s.rxFlush).rxq = [] := rfl
@[simp] theorem rxFlush_txlog : (s.rxFlush).txlog = s.txlog := rfl
@[simp] theorem rxFlush_script : (s.rxFlush).script = s.script := rfl
@[simp] theorem rxFlush_cycle : (s.rxFlush).cycle = s.cycle := rfl
@[simp] theorem rxFlush_inputs : (s.rxFlush).inputs = s.inputs := rfl

@[simp] theorem rxPop_cfe : (s.rxPop).cfe = s.cfe := rfl
@[simp] theorem rxPop_rxq : (s.rxPop).rxq = s.rxq.tail := rfl
@[simp] theorem rxPop_txlog : (s.rxPop).txlog = s.txlog := rfl
@[simp] theorem rxPop_script : (s.rxPop).script = s.script := rfl
@[simp] theorem rxPop_cycle : (s.rxPop).cycle = s.cycle := rfl
@[simp] theorem rxPop_inputs : (s.rxPop).inputs = s.inputs := rfl

@[simp] theorem txTake_cfe (b : Byte) : (s.txTake b).cfe = s.cfe := rfl
@[simp] theorem txTake_rxq (b : Byte) : (s.txTake b).rxq = s.rxq := rfl
@[simp] theorem txTake_txlog (b : Byte) : (s.txTake b).txlog = s.txlog ++ [b] := rfl
@[simp] theorem txTake_script (b : Byte) : (s.txTake b).script = s.script := rfl
@[simp] theorem txTake_cycle (b : Byte) : (s.txTake b).cycle = s.cycle := rfl
@[simp] theorem txTake_inputs (b : Byte) : (s.txTake b).inputs = s.inputs := rfl

@[simp] theorem endCycle_cfe (p : Params) : (s.endCycle p).cfe = s.cfe := rfl
@[simp] theorem endCycle_rxq (p : Params) :
    (s.endCycle p).rxq = enqueue p s.cycle s.rxq s.inputs.arrivals := rfl
@[simp] theorem endCycle_txlog (p : Params) : (s.endCycle p).txlog = s.txlog := rfl
@[simp] theorem endCycle_script (p : Params) : (s.endCycle p).script = s.script.tail := rfl
@[simp] theorem endCycle_cycle (p : Params) : (s.endCycle p).cycle = s.cycle + 1 := rfl

end Sys2Proof.Machine
end

