-- ==== Sys2Proof/Laws/Ops.lean ====
section
/-! SUPPORT. One lemma for each shared operation: what it can do. -/

namespace Sys2Proof

section Slots
variable {α : Type}

theorem Slots.get_set_same (x : Slots α) (i : Fin 5) (v : α) : (x.set i v).get i = v := by
  match i with
  | 0 | 1 | 2 | 3 | 4 => rfl

theorem Slots.get_set_other (x : Slots α) (i j : Fin 5) (v : α) (h : j ≠ i) : (x.set i v).get j = x.get j := by
  match i, j with
  | 0, 0 | 1, 1 | 2, 2 | 3, 3 | 4, 4 => exact absurd rfl h
  | 0, 1 | 0, 2 | 0, 3 | 0, 4 | 1, 0 | 1, 2 | 1, 3 | 1, 4 | 2, 0 | 2, 1 => rfl
  | 2, 3 | 2, 4 | 3, 0 | 3, 1 | 3, 2 | 3, 4 | 4, 0 | 4, 1 | 4, 2 | 4, 3 => rfl

@[simp] theorem Slots.get_fill (v : α) (i : Fin 5) : (Slots.fill v).get i = v := by
  match i with
  | 0 | 1 | 2 | 3 | 4 => rfl

@[simp] theorem Slots.length_toList (x : Slots α) : x.toList.length = 5 := rfl

/-- Place `i` is element `i` of the list. -/
theorem Slots.getElem_toList (x : Slots α) (i : Fin 5) : x.toList[i.val]'(by simp) = x.get i := by
  match i with
  | 0 | 1 | 2 | 3 | 4 => rfl

/-- The first `i + 1` places are the first `i` and then place `i`. -/
theorem take_succ_toList (x : Slots α) (i : Fin 5) :
    x.toList.take (i.val + 1) = x.toList.take i.val ++ [x.get i] := by
  match i with
  | 0 | 1 | 2 | 3 | 4 => rfl

end Slots

namespace Machine

@[simp] theorem onNext_next (s : State) (f : State → State) : onNext (.next s) f = .next (f s) := rfl

/-- Going on with `f` gives a next state exactly when the outcome was one. -/
theorem onNext_eq_next {o : Result} {f : State → State} {t : State} :
    onNext o f = .next t ↔ ∃ u, o = .next u ∧ t = f u := by
  cases o with
  | next u =>
    constructor
    · intro h; exact ⟨u, rfl, by simpa [onNext] using h.symm⟩
    · rintro ⟨v, hv, rfl⟩; cases hv; rfl
  | fault r => simp [onNext]
  | refused r => simp [onNext]

/-- Within its capacity the receive queue is first-in first-out (42_dispatcher.md R161). -/
theorem enqueue_of_fits {p : Params} {n : Nat} {q A : List Byte} (h : (q ++ A).length ≤ p.rxqDepth) :
    enqueue p n q A = q ++ A := if_pos h

/-- Whatever happens, the receive queue stays within its capacity. -/
theorem enqueue_length_le (p : Params) (n : Nat) (q A : List Byte) : (enqueue p n q A).length ≤ p.rxqDepth := by
  unfold enqueue
  split
  · assumption
  · simp

/-- The parameters of this CFE meet the laws of 00_scope.md R6. -/
theorem params_lawful : Config.params.Lawful := by
  refine ⟨by simp [Config.params], ?_, by simp [Config.params]⟩
  have h : Config.timeoutAboveOne + 1 < 2 ^ (Nat.log2 (Config.timeoutAboveOne + 1) + 1) := Nat.lt_log2_self
  have h2 : 2 ^ (Nat.log2 (Config.timeoutAboveOne + 1) + 1) ≤ 2 ^ Config.params.tw :=
    Nat.pow_le_pow_right (by omega) (by simp [Config.params])
  show Config.timeoutAboveOne + 1 ≤ _
  omega

end Machine

end Sys2Proof
end

