-- ==== Sys2Proof/Laws/Cycle.lean ====
section
/-! SUPPORT. What a cycle can do, said once: acceptance, the transmit step, the reply step, and the step by phase. -/

namespace Sys2Proof.Machine

/-- Every term of Instr completes its cycle of acceptance: no command stops the machine (60_exceptions.md R210). -/
theorem exec_next (i : Instr) (s : State) : ∃ t, exec i s = .next t := by
  cases i with
  | readReply len => unfold exec execReadReply; dsimp only; split <;> exact ⟨_, rfl⟩
  | transact len => unfold exec execTransact; dsimp only; split <;> exact ⟨_, rfl⟩
  | _ => exact ⟨_, rfl⟩

/-- What no command's cycle of acceptance touches: `TXLOG`, the script, the cycle count. -/
theorem exec_keeps {i : Instr} {s t : State} (h : exec i s = .next t) :
    t.txlog = s.txlog ∧ t.script = s.script ∧ t.cycle = s.cycle := by
  cases i with
  | readReply len =>
    unfold exec execReadReply at h
    dsimp only at h
    split at h <;> (cases h; exact ⟨rfl, rfl, rfl⟩)
  | transact len =>
    unfold exec execTransact at h
    dsimp only at h
    split at h <;> (cases h; exact ⟨rfl, rfl, rfl⟩)
  | _ => cases h; exact ⟨rfl, rfl, rfl⟩

/-- A step in a cycle of reset. -/
theorem step_reset {s : State} (h : s.inputs.rst = true) :
    step s = .next (s.resetCfe.endCycle Config.params) := by
  simp [step, cycleWith, cfeCycle, h]

/-- A step that accepts a word. -/
theorem step_accept {s : State} {cw : CommandWord} (h : s.Accepts cw) :
    step s = onNext (acceptWord cw s) (State.endCycle Config.params) := by
  obtain ⟨hr, hp, hv, rfl⟩ := h
  simp [step, cycleWith, cfeCycle, hr, hp, hv]

/-- A step while IDLE with no word presented. -/
theorem step_idle {s : State} (hr : s.inputs.rst = false) (hp : s.cfe.phase = .idle)
    (hv : s.inputs.cmdValid = false) : step s = .next (s.endCycle Config.params) := by
  simp [step, cycleWith, cfeCycle, hr, hp, hv]

/-- A step of the transmit phase. -/
theorem step_tx {s : State} {i : Fin 5} (hr : s.inputs.rst = false) (hp : s.cfe.phase = .tx i) :
    step s = .next ((s.txStep i).endCycle Config.params) := by
  simp [step, cycleWith, cfeCycle, hr, hp]

/-- A step of the reply phase. -/
theorem step_rx {s : State} {k : Fin 5} (hr : s.inputs.rst = false) (hp : s.cfe.phase = .rx k) :
    step s = onNext (rxStep Config.params k s) (State.endCycle Config.params) := by
  simp [step, cycleWith, cfeCycle, hr, hp]

/-- Everything a step can be, by reset and phase (42_dispatcher.md R163). -/
theorem step_cases (s : State) :
    (s.inputs.rst = true ∧ step s = .next (s.resetCfe.endCycle Config.params)) ∨
    (∃ cw, s.Accepts cw ∧ step s = onNext (acceptWord cw s) (State.endCycle Config.params)) ∨
    (s.inputs.rst = false ∧ s.cfe.phase = .idle ∧ s.inputs.cmdValid = false ∧
      step s = .next (s.endCycle Config.params)) ∨
    (∃ i, s.inputs.rst = false ∧ s.cfe.phase = .tx i ∧ step s = .next ((s.txStep i).endCycle Config.params)) ∨
    (∃ k, s.inputs.rst = false ∧ s.cfe.phase = .rx k ∧
      step s = onNext (rxStep Config.params k s) (State.endCycle Config.params)) := by
  by_cases hr : s.inputs.rst = true
  · exact .inl ⟨hr, step_reset hr⟩
  · have hr : s.inputs.rst = false := by simpa using hr
    cases hp : s.cfe.phase with
    | idle =>
      by_cases hv : s.inputs.cmdValid = true
      · have ha : s.Accepts s.inputs.cmdWord := ⟨hr, hp, hv, rfl⟩
        exact .inr (.inl ⟨_, ha, step_accept ha⟩)
      · have hv : s.inputs.cmdValid = false := by simpa using hv
        exact .inr (.inr (.inl ⟨hr, rfl, hv, step_idle hr hp hv⟩))
    | tx i => exact .inr (.inr (.inr (.inl ⟨i, hr, rfl, step_tx hr hp⟩)))
    | rx k => exact .inr (.inr (.inr (.inr ⟨k, hr, rfl, step_rx hr hp⟩)))

/-- Everything a transmit step can be (42_dispatcher.md R165). -/
theorem txStep_cases (s : State) (i : Fin 5) :
    (s.inputs.txReady = false ∧ s.txStep i = s) ∨
    (s.inputs.txReady = true ∧ (∃ j : Fin 5, j.val = i.val + 1 ∧
      s.txStep i = (s.txTake (s.cfe.txf.get i)).setPhase (.tx j))) ∨
    (s.inputs.txReady = true ∧ i = 4 ∧ s.cfe.curOp = .send ∧
      s.txStep i = (s.txTake (s.cfe.txf.get i)).setPhase .idle) ∨
    (s.inputs.txReady = true ∧ i = 4 ∧ s.cfe.curOp ≠ .send ∧
      s.txStep i = ((s.txTake (s.cfe.txf.get i)).replySetup).setPhase (replyStart s.cfe.curLen)) := by
  unfold State.txStep
  by_cases hr : s.inputs.txReady = true
  · simp only [hr, if_true]
    by_cases h : i.val < 4
    · refine .inr (.inl ⟨trivial, ⟨i.val + 1, by omega⟩, rfl, ?_⟩)
      simp [h]
    · have hi : i = 4 := by apply Fin.ext; have := i.isLt; simp; omega
      cases ho : s.cfe.curOp <;> simp [hi, State.frameSent, ho]
  · exact .inl ⟨by simpa using hr, by simp [hr]⟩

/-- Everything `Finish()` can be (42_dispatcher.md R169). -/
theorem finish_cases (s : State) (got : Option Byte) :
    (s.cfe.curOp = .sbc ∧ s.finish got =
      (s.setPhase .idle).loadRes (match got with | some b => zext32 b | none => 0) got.isSome) ∨
    (s.cfe.curOp ≠ .sbc ∧ s.finish got = s.setPhase .idle) := by
  unfold State.finish
  cases s.cfe.curOp <;> cases got <;> simp

/-- Everything a reply step can be (42_dispatcher.md R167, R168). -/
theorem rxStep_cases (p : Params) (k : Fin 5) (s : State) :
    (∃ b q, s.rxq = b :: q ∧ k.val + 1 = s.cfe.curLen.toNat ∧
      rxStep p k s = .next ((((s.rxPop).fillSlot k b).setTmr 0).finish (some b))) ∨
    (∃ b q, ∃ j : Fin 5, s.rxq = b :: q ∧ k.val + 1 ≠ s.cfe.curLen.toNat ∧ j.val = k.val + 1 ∧
      rxStep p k s = .next ((((s.rxPop).fillSlot k b).setTmr 0).setPhase (.rx j))) ∨
    (s.rxq ≠ [] ∧ k.val + 1 ≠ s.cfe.curLen.toNat ∧ k = 4 ∧ rxStep p k s = .fault .rxSlotOutOfRange) ∨
    (s.rxq = [] ∧ s.inputs.tick = true ∧ s.cfe.tmr + 1 = p.tTimeout ∧
      rxStep p k s = .next (s.recordTimeout.finish none)) ∨
    (s.rxq = [] ∧ s.inputs.tick = true ∧ s.cfe.tmr + 1 ≠ p.tTimeout ∧
      rxStep p k s = .next (s.setTmr (countTick p s.cfe.tmr))) ∨
    (s.rxq = [] ∧ s.inputs.tick = false ∧ rxStep p k s = .next s) := by
  unfold rxStep
  cases hq : s.rxq with
  | cons b q =>
    by_cases hl : k.val + 1 = s.cfe.curLen.toNat
    · exact .inl ⟨b, q, rfl, hl, by simp [rxTake, hl]⟩
    · by_cases h5 : k.val + 1 < 5
      · exact .inr (.inl ⟨b, q, ⟨k.val + 1, h5⟩, rfl, hl, rfl, by simp [rxTake, hl, h5]⟩)
      · have hk : k = 4 := by apply Fin.ext; have := k.isLt; simp; omega
        exact .inr (.inr (.inl ⟨by simp, hl, hk, by simp [rxTake, hl, h5]⟩))
  | nil =>
    by_cases ht : s.inputs.tick = true
    · by_cases hc : s.cfe.tmr + 1 = p.tTimeout
      · exact .inr (.inr (.inr (.inl ⟨rfl, ht, hc, by simp [State.rxWait, ht, hc]⟩)))
      · exact .inr (.inr (.inr (.inr (.inl ⟨rfl, ht, hc, by simp [State.rxWait, ht, hc]⟩))))
    · have ht : s.inputs.tick = false := by simpa using ht
      exact .inr (.inr (.inr (.inr (.inr ⟨rfl, ht, by simp [State.rxWait, ht]⟩))))

/-- Below the ceiling a counted tick does not wrap: "It never wraps" (10_state.md R30). -/
theorem countTick_of_lt {n : Nat} (h : n < Config.params.tTimeout) : countTick Config.params n = n + 1 := by
  have hp := params_lawful
  unfold countTick
  exact Nat.mod_eq_of_lt (by omega)

/-- What `Finish()` changes: it goes to IDLE, and `RES` and `RESV` are all else it may write (42_dispatcher.md R169). -/
theorem finish_cfe (s : State) (got : Option Byte) :
    (∃ r v, (s.finish got).cfe = { s.cfe with phase := .idle, res := r, resv := v }) ∧
    (s.finish got).rxq = s.rxq ∧ (s.finish got).txlog = s.txlog := by
  obtain ⟨-, h⟩ | ⟨-, h⟩ := finish_cases s got <;> rw [h] <;> exact ⟨⟨_, _, rfl⟩, rfl, rfl⟩

/-- A legal LEN is one of the legal values of `CUR_LEN` (10_state.md R20, R29). -/
theorem curLenOf_legal {len : BitVec 4} (h : legalLen len = true) :
    curLenOf len = 0 ∨ curLenOf len = 1 ∨ curLenOf len = 2 ∨ curLenOf len = 5 := by
  revert len
  decide

/-- What a cycle of acceptance does to the dispatcher's registers and the receive queue: an immediate command (or an
ill-formed term) leaves them alone, a frame-sending command enters `TX(0)` with the queue flushed, READ_REPLY enters its
reply phase. TO is clear after each (30_encoding.md R78, 42_dispatcher.md R164, R171, 60_exceptions.md R212). -/
theorem exec_cases {i : Instr} {s t : State} (h : exec i s = .next t) :
    t.cfe.statusTo = false ∧
    ((t.cfe.phase = s.cfe.phase ∧ t.cfe.curOp = s.cfe.curOp ∧ t.cfe.curLen = s.cfe.curLen ∧
        t.cfe.tmr = s.cfe.tmr ∧ t.cfe.rxb = s.cfe.rxb ∧ t.cfe.rxv = s.cfe.rxv ∧ t.rxq = s.rxq) ∨
     (t.cfe.phase = .tx 0 ∧ t.cfe.statusIll = false ∧ t.cfe.tmr = s.cfe.tmr ∧ t.cfe.rxb = s.cfe.rxb ∧
        t.cfe.rxv = s.cfe.rxv ∧ t.rxq = [] ∧
        ((t.cfe.curOp = .send ∧ t.cfe.curLen = 0) ∨
         (t.cfe.curOp = .xact ∧ (t.cfe.curLen = 0 ∨ t.cfe.curLen = 1 ∨ t.cfe.curLen = 2 ∨ t.cfe.curLen = 5)) ∨
         (t.cfe.curOp = .sbc ∧ t.cfe.curLen = 1 ∧ t.cfe.res = 0 ∧ t.cfe.resv = false))) ∨
     (t.cfe.phase = replyStart t.cfe.curLen ∧ t.cfe.statusIll = false ∧ t.cfe.curOp = .read ∧ t.cfe.tmr = 0 ∧
        t.cfe.rxb = Slots.fill 0 ∧ t.cfe.rxv = Slots.fill false ∧ t.rxq = s.rxq ∧
        (t.cfe.curLen = 0 ∨ t.cfe.curLen = 1 ∨ t.cfe.curLen = 2 ∨ t.cfe.curLen = 5))) := by
  cases i with
  | readReply len =>
    simp only [exec, execReadReply] at h
    split at h <;> cases h
    · exact ⟨rfl, .inr (.inr ⟨rfl, rfl, rfl, rfl, rfl, rfl, rfl, curLenOf_legal ‹_›⟩)⟩
    · exact ⟨rfl, .inl ⟨rfl, rfl, rfl, rfl, rfl, rfl, rfl⟩⟩
  | transact len =>
    simp only [exec, execTransact] at h
    split at h <;> cases h
    · exact ⟨rfl, .inr (.inl ⟨rfl, rfl, rfl, rfl, rfl, rfl, .inr (.inl ⟨rfl, curLenOf_legal ‹_›⟩)⟩)⟩
    · exact ⟨rfl, .inl ⟨rfl, rfl, rfl, rfl, rfl, rfl, rfl⟩⟩
  | sendFrame => cases h; exact ⟨rfl, .inr (.inl ⟨rfl, rfl, rfl, rfl, rfl, rfl, .inl ⟨rfl, rfl⟩⟩)⟩
  | singleByteCmd opc =>
    cases h; exact ⟨rfl, .inr (.inl ⟨rfl, rfl, rfl, rfl, rfl, rfl, .inr (.inr ⟨rfl, rfl, rfl, rfl⟩)⟩)⟩
  | _ => cases h; exact ⟨rfl, .inl ⟨rfl, rfl, rfl, rfl, rfl, rfl, rfl⟩⟩

/-- A reply phase of length 0 is over at once (42_dispatcher.md R177). -/
theorem replyStart_of_zero : replyStart 0 = .idle := rfl

theorem replyStart_of_ne {len : BitVec 3} (h : len ≠ 0) : replyStart len = .rx 0 := if_neg h

end Sys2Proof.Machine
end

