-- ==== Sys2Proof/Laws/Invariant.lean ====
section
/-! SUPPORT. The filled reply slots of the invariant: how clearing and filling slots moves them on. -/

namespace Sys2Proof.Machine

/-- Cleared reply registers hold no data (42_dispatcher.md R166). -/
theorem slotsFilled_zero {c : Cfe} (hb : c.rxb = Slots.fill 0) (hv : c.rxv = Slots.fill false) : SlotsFilled c 0 := by
  intro j
  simp [hb, hv]

/-- Only the reply registers count. -/
theorem slotsFilled_congr {c d : Cfe} {m : Nat} (h : SlotsFilled c m) (hb : d.rxb = c.rxb) (hv : d.rxv = c.rxv) :
    SlotsFilled d m := by
  intro j
  rw [hb, hv]
  exact h j

/-- A byte in slot `k`, the first empty one, fills one more slot (42_dispatcher.md R167). -/
theorem slotsFilled_set {c d : Cfe} {k : Fin 5} {b : Byte} (h : SlotsFilled c k.val)
    (hb : d.rxb = c.rxb.set k b) (hv : d.rxv = c.rxv.set k true) : SlotsFilled d (k.val + 1) := by
  intro j
  rw [hb, hv]
  by_cases hj : j = k
  · subst hj
    simp [Slots.get_set_same]
  · have hne : j.val ≠ k.val := fun e => hj (Fin.ext e)
    rw [Slots.get_set_other _ _ _ _ hj, Slots.get_set_other _ _ _ _ hj]
    exact ⟨(h j).1.trans ⟨fun _ => by omega, fun _ => by omega⟩, (h j).2⟩

end Sys2Proof.Machine
end

