-- ==== Sys2Proof/Laws/PerInstr.lean ====
section
/-! SUPPORT. Statements made for every instruction, one lemma a constructor. Family OpOfEncode: the OP field of a command's
encoding is its operation code, and RSV is zero (30_encoding.md R71, R74). -/

namespace Sys2Proof.Laws

/-- The OP value of 30_encoding.md R71. -/
def opCode : Instr → BitVec 4
  | .nop => 0x0
  | .frameClear => 0x1
  | .buildRaw _ _ _ _ _ => 0x2
  | .buildFreq _ _ => 0x3
  | .buildNvmrd _ _ => 0x4
  | .buildNvmwr _ _ _ _ => 0x5
  | .buildToggle _ => 0x6
  | .sendFrame => 0x7
  | .readReply _ => 0x8
  | .transact _ => 0x9
  | .singleByteCmd _ => 0xA
  | .encFreq _ => 0xB
  | .decFreq _ => 0xC
  | .parseFreqReply => 0xD

/-- The statement of the family. -/
def OpOfEncode.Statement (i : Instr) : Prop := opField (encode i) = opCode i ∧ rsvField (encode i) = 0

theorem OpOfEncode.nop : OpOfEncode.Statement .nop := by simp [Statement, encode, opCode]
theorem OpOfEncode.frameClear : OpOfEncode.Statement .frameClear := by simp [Statement, encode, opCode]
theorem OpOfEncode.buildRaw (p0 p1 p2 p3 opc : Byte) : OpOfEncode.Statement (.buildRaw p0 p1 p2 p3 opc) := by
  simp [Statement, encode, opCode]
theorem OpOfEncode.buildFreq (f : Word32) (opc : Byte) : OpOfEncode.Statement (.buildFreq f opc) := by
  simp [Statement, encode, opCode]
theorem OpOfEncode.buildNvmrd (addr : NvmAddr) (opc : Byte) : OpOfEncode.Statement (.buildNvmrd addr opc) := by
  simp [Statement, encode, opCode]
theorem OpOfEncode.buildNvmwr (addr : NvmAddr) (data sib opc : Byte) :
    OpOfEncode.Statement (.buildNvmwr addr data sib opc) := by simp [Statement, encode, opCode]
theorem OpOfEncode.buildToggle (opc : Byte) : OpOfEncode.Statement (.buildToggle opc) := by
  simp [Statement, encode, opCode]
theorem OpOfEncode.sendFrame : OpOfEncode.Statement .sendFrame := by simp [Statement, encode, opCode]
theorem OpOfEncode.readReply (len : BitVec 4) : OpOfEncode.Statement (.readReply len) := by
  simp [Statement, encode, opCode]
theorem OpOfEncode.transact (len : BitVec 4) : OpOfEncode.Statement (.transact len) := by
  simp [Statement, encode, opCode]
theorem OpOfEncode.singleByteCmd (opc : Byte) : OpOfEncode.Statement (.singleByteCmd opc) := by
  simp [Statement, encode, opCode]
theorem OpOfEncode.encFreq (f : Word32) : OpOfEncode.Statement (.encFreq f) := by simp [Statement, encode, opCode]
theorem OpOfEncode.decFreq (w : Word32) : OpOfEncode.Statement (.decFreq w) := by simp [Statement, encode, opCode]
theorem OpOfEncode.parseFreqReply : OpOfEncode.Statement .parseFreqReply := by simp [Statement, encode, opCode]

end Sys2Proof.Laws
end

