-- ==== Sys2Proof/Laws/Run.lean ====
section
/-! SUPPORT. Runs: a run goes step by step, and the inputs of a state after a step are those of the state before, one cycle
on. -/

namespace Sys2Proof.Machine

@[simp] theorem inputsAt_zero (s : State) : s.inputsAt 0 = s.inputs := by
  cases h : s.script <;> simp [State.inputsAt, State.inputs, h]

/-- The inputs past the end of a cycle are those of the cycle after. -/
theorem inputsAt_of_tail {s t : State} (hs : t.script = s.script.tail) (hc : t.cycle = s.cycle + 1) (n : Nat) :
    t.inputsAt n = s.inputsAt (n + 1) := by
  cases h : s.script <;> simp [State.inputsAt, hs, hc, h, Nat.add_comm, Nat.add_left_comm]

/-- Every step moves the script and the cycle count on by one cycle. -/
theorem step_script_cycle {s t : State} (h : step s = .next t) :
    t.script = s.script.tail ∧ t.cycle = s.cycle + 1 := by
  obtain ⟨-, h1⟩ | ⟨cw, -, h1⟩ | ⟨-, -, -, h1⟩ | ⟨i, -, -, h1⟩ | ⟨k, -, -, h1⟩ := step_cases s
  · rw [h1] at h; cases h; exact ⟨rfl, rfl⟩
  · rw [h1, onNext_eq_next] at h
    obtain ⟨u, hu, rfl⟩ := h
    unfold acceptWord at hu
    cases hd : decode cw with
    | ok i =>
      rw [hd] at hu
      obtain ⟨-, h2, h3⟩ := exec_keeps hu
      simp [h2, h3]
    | error e => rw [hd] at hu; cases hu; exact ⟨rfl, rfl⟩
  · rw [h1] at h; cases h; exact ⟨rfl, rfl⟩
  · rw [h1] at h
    cases h
    obtain ⟨-, h2⟩ | ⟨-, j, -, h2⟩ | ⟨-, -, -, h2⟩ | ⟨-, -, -, h2⟩ := txStep_cases s i <;> rw [h2] <;> exact ⟨rfl, rfl⟩
  · rw [h1, onNext_eq_next] at h
    obtain ⟨u, hu, rfl⟩ := h
    obtain ⟨b, q, -, -, h2⟩ | ⟨b, q, j, -, -, -, h2⟩ | ⟨-, -, -, h2⟩ | ⟨-, -, -, h2⟩ | ⟨-, -, -, h2⟩ | ⟨-, -, h2⟩ :=
      rxStep_cases Config.params k s <;> rw [h2] at hu <;> cases hu
    · obtain ⟨-, h3⟩ | ⟨-, h3⟩ := finish_cases (((s.rxPop).fillSlot k b).setTmr 0) (some b) <;> rw [h3] <;>
        exact ⟨rfl, rfl⟩
    · exact ⟨rfl, rfl⟩
    · obtain ⟨-, h3⟩ | ⟨-, h3⟩ := finish_cases s.recordTimeout none <;> rw [h3] <;> exact ⟨rfl, rfl⟩
    · exact ⟨rfl, rfl⟩
    · exact ⟨rfl, rfl⟩

/-- After a step, the inputs `n` cycles on are the ones that were `n + 1` cycles on. -/
theorem inputsAt_step {s t : State} (h : step s = .next t) (n : Nat) : t.inputsAt n = s.inputsAt (n + 1) :=
  inputsAt_of_tail (step_script_cycle h).1 (step_script_cycle h).2 n

theorem run_zero (s : State) : run 0 s = .next s := rfl

/-- The first step of a run of any machine. -/
theorem coreRun_succ (M : Host.Core) {s t : M.State} (h : M.step s = .next t) (n : Nat) :
    M.run (n + 1) s = M.run n t := by
  rw [Host.Core.run, h]

/-- A run of any machine that goes on has a first step. -/
theorem coreRun_succ_inv (M : Host.Core) {s t : M.State} {n : Nat} (h : M.run (n + 1) s = .next t) :
    ∃ u, M.step s = .next u ∧ M.run n u = .next t := by
  rw [Host.Core.run] at h
  cases hs : M.step s with
  | next u => rw [hs] at h; exact ⟨u, rfl, h⟩
  | fault r => rw [hs] at h; cases h
  | refused r => rw [hs] at h; cases h

/-- The first step of a run. -/
theorem run_succ {s t : State} (h : step s = .next t) (n : Nat) : run (n + 1) s = run n t :=
  coreRun_succ core h n

/-- A run that goes on has a first step. -/
theorem run_succ_inv {s t : State} {n : Nat} (h : run (n + 1) s = .next t) :
    ∃ u, step s = .next u ∧ run n u = .next t :=
  coreRun_succ_inv core h

/-- Counting inputs: the first cycle, then the cycles of the state after the step. -/
theorem countInputs_step {s t : State} (h : step s = .next t) (f : Inputs → Bool) (n : Nat) :
    s.countInputs f 0 (n + 1) = (if f s.inputs then 1 else 0) + t.countInputs f 0 n := by
  unfold State.countInputs
  rw [List.range_succ_eq_map, List.countP_cons, List.countP_map]
  have : ((fun j => f (s.inputsAt (0 + j))) ∘ Nat.succ) = fun j => f (t.inputsAt (0 + j)) := by
    funext j
    simp [inputsAt_step h]
  rw [this]
  simp [Nat.add_comm]

/-- Counting inputs from a later cycle on. -/
theorem countInputs_step_from {s t : State} (h : step s = .next t) (f : Inputs → Bool) (a n : Nat) :
    s.countInputs f (a + 1) n = t.countInputs f a n := by
  unfold State.countInputs
  congr 1
  funext j
  rw [inputsAt_step h]
  congr 2
  omega

theorem noReset_step {s t : State} (h : step s = .next t) {n : Nat} (hr : s.NoReset (n + 1)) :
    s.inputs.rst = false ∧ t.NoReset n :=
  ⟨by simpa using hr 0 (by omega), fun j hj => by rw [inputsAt_step h]; exact hr (j + 1) (by omega)⟩

theorem noArrival_step {s t : State} (h : step s = .next t) {n : Nat} (ha : s.NoArrival (n + 1)) :
    s.inputs.arrivals = [] ∧ t.NoArrival n :=
  ⟨by simpa using ha 0 (by omega), fun j hj => by rw [inputsAt_step h]; exact ha (j + 1) (by omega)⟩

end Sys2Proof.Machine
end

