-- ==== Sys2Proof/Tests/Slice0.lean ====
section
/-! SUPPORT. The model's own tests. Expected values are those of 95_test_vectors.md (V and P numbers) or of the rule named,
never the model's answer. Then, for each obligation with hypotheses, a concrete state that meets all of them. -/

namespace Sys2Proof.Tests

open Sys2Proof Sys2Proof.Machine

/-! Well-formedness: each check and a term that it refuses (30_encoding.md R72) -/

theorem test_wellFormed_readReply_3_refused : (Instr.readReply 3).wellFormed = false := by decide
theorem test_wellFormed_transact_9_refused : (Instr.transact 9).wellFormed = false := by decide
theorem test_wellFormed_legal_lengths :
    [0#4, 1#4, 2#4, 5#4].all (fun n => (Instr.readReply n).wellFormed && (Instr.transact n).wellFormed) = true := by decide

/-! Decoding: words of 95_test_vectors.md, one for every constructor, and the encoder gives them back -/

/-- The word decodes to the command, and the command's encoding is the word. -/
abbrev Spells (cw : CommandWord) (i : Instr) : Prop := decode cw = .ok i ∧ encode i = cw

theorem test_decode_nop : Spells 0x0000000000000000 .nop := by decide
theorem test_decode_frameClear : Spells 0x1000000000000000 .frameClear := by decide
theorem test_decode_buildRaw : Spells 0x2007000012345678 (.buildRaw 0x12 0x34 0x56 0x78 0x07) := by decide
theorem test_decode_buildFreq : Spells 0x300100000015BE68 (.buildFreq 1425000 0x01) := by decide
theorem test_decode_buildNvmrd : Spells 0x40BB000000B10000 (.buildNvmrd 0x00B1 0xBB) := by decide
theorem test_decode_buildNvmwr : Spells 0x50BC000000B25A20 (.buildNvmwr 0x00B2 0x5A 0x20 0xBC) := by decide
theorem test_decode_buildToggle : Spells 0x6081000000000000 (.buildToggle 0x81) := by decide
theorem test_decode_sendFrame : Spells 0x7000000000000000 .sendFrame := by decide
theorem test_decode_readReply : Spells 0x8500000000000000 (.readReply 5) := by decide
theorem test_decode_transact : Spells 0x9200000000000000 (.transact 2) := by decide
theorem test_decode_singleByteCmd : Spells 0xA081000000000000 (.singleByteCmd 0x81) := by decide
theorem test_decode_encFreq : Spells 0xB00000000015BE68 (.encFreq 1425000) := by decide
theorem test_decode_decFreq : Spells 0xC000000001425000 (.decFreq 0x01425000) := by decide
theorem test_decode_parseFreqReply : Spells 0xD000000000000000 .parseFreqReply := by decide

/-- V43 to V50: why each word is illegal. -/
theorem test_decode_illegal_first :
    decode 0xE000000000000000 = .error .reservedOp ∧ decode 0xF000000000000000 = .error .reservedOp ∧
    decode 0x0000000100000000 = .error .rsvNonzero ∧ decode 0x0100000000000000 = .error .lenNonzero ∧
    decode 0x0001000000000000 = .error .opcNonzero ∧ decode 0x0000000000000001 = .error .argNonzero ∧
    decode 0x2107000012345678 = .error .lenNonzero ∧ decode 0x40BB000000B10001 = .error .argLowNonzero := by decide

/-- V51 to V57. -/
theorem test_decode_illegal_second :
    decode 0x6081000000000001 = .error .argNonzero ∧ decode 0x7000000000000001 = .error .argNonzero ∧
    decode 0x8300000000000000 = .error .lenNotLegal ∧ decode 0x8201000000000000 = .error .opcNonzero ∧
    decode 0x9200000000000001 = .error .argNonzero ∧ decode 0xA181000000000000 = .error .lenNonzero ∧
    decode 0xB001000000000000 = .error .opcNonzero := by decide

/-- The host's two entry points: a row's word is decoded, and placed so that the very next cycle accepts it. -/
theorem test_decodeTableWord : decodeTableWord 64 0x9200000000000000 = some (.transact 2) ∧
    decodeTableWord 64 0xE000000000000000 = none := by decide
theorem test_withFetchWord : (State.reset.withFetchWord 64 0xA081000000000000).Accepts 0xA081000000000000 :=
  ⟨rfl, rfl, rfl, rfl⟩

/-- P3, 30_encoding.md R89. -/
theorem test_pseudo_readFreq : (Pseudo.readFreq 0x03).words =
    [0x6003000000000000, 0x9500000000000000, 0xD000000000000000] := by decide

/-! One cycle on a small state. `T_TIMEOUT` is 3, as in 95_test_vectors.md -/

def testParams : Params := ⟨3, 2, 5⟩

/-- Inputs with no reset and no command. -/
def line (ready tick : Bool) (arrivals : List Byte) : Inputs :=
  { quietInputs with txReady := ready, tick := tick, arrivals := arrivals }

/-- A state with registers `c`, receive queue `q`, and the inputs of this and the coming cycles. -/
def stateOf (c : Cfe) (q : List Byte) (script : List Inputs) : State :=
  { cfe := c, rxq := q, txlog := [], script := script, cycle := 0 }

/-- The state after one cycle, seen through `f`. -/
def after {α : Type} (s : State) (f : State → α) : Option α :=
  match cycleWith testParams s with
  | .next t => some (f t)
  | .fault _ => none
  | .refused _ => none

/-- One cycle that presents `cw` while IDLE. -/
def accept {α : Type} (c : Cfe) (q : List Byte) (cw : CommandWord) (f : State → α) : Option α :=
  after ((stateOf c q []).present cw) f

/-- The registers after reset with `TO` set, as a timed-out READ_REPLY leaves them (V68). -/
def timedOut : Cfe := { Cfe.reset with statusTo := true }

/-- The registers after reset with the frame of V33. -/
def rawFrame : Cfe := { Cfe.reset with txf := ⟨0x12, 0x34, 0x56, 0x78, 0x07⟩ }

/-- 41_frame_build.md R132. -/
theorem test_nop_clears_to : accept timedOut [] 0x0000000000000000 (·.cfe) = some Cfe.reset := by decide
/-- V32. -/
theorem test_frameClear : accept rawFrame [] 0x1000000000000000 (·.cfe) = some Cfe.reset := by decide
/-- V33. -/
theorem test_buildRaw : accept timedOut [] 0x2007000012345678 (·.cfe) = some rawFrame := by decide
/-- V34, V37. -/
theorem test_buildFreq : accept rawFrame [] 0x300100000015BE68 (·.cfe.txf) =
    some ⟨0x01, 0x42, 0x50, 0x00, 0x01⟩ := by decide
theorem test_buildFreq_truncates : accept rawFrame [] 0x30010000FFFFFFFF (·.cfe.txf) =
    some ⟨0x94, 0x96, 0x72, 0x95, 0x01⟩ := by decide
/-- V38, V39. -/
theorem test_buildNvmrd : accept rawFrame [] 0x40BB000000B10000 (·.cfe.txf) =
    some ⟨0x00, 0xB1, 0x00, 0x00, 0xBB⟩ := by decide
theorem test_buildNvmrd_top : accept rawFrame [] 0x40BB0000FFFF0000 (·.cfe.txf) =
    some ⟨0xFF, 0xFF, 0x00, 0x00, 0xBB⟩ := by decide
/-- V40. -/
theorem test_buildNvmwr : accept rawFrame [] 0x50BC000000B25A20 (·.cfe.txf) =
    some ⟨0x00, 0xB2, 0x5A, 0x20, 0xBC⟩ := by decide
/-- V41, full clear. -/
theorem test_buildToggle : accept rawFrame [] 0x6081000000000000 (·.cfe.txf) =
    some ⟨0x00, 0x00, 0x00, 0x00, 0x81⟩ := by decide
/-- V8, V11. -/
theorem test_encFreq_largest : accept timedOut [] 0xB000000005F5E0FF (·.cfe) =
    some { Cfe.reset with res := 0x99999999, resv := true } := by decide
theorem test_encFreq_truncates : accept timedOut [] 0xB0000000075BCD15 (·.cfe.res) = some 0x23456789 := by decide
/-- V16, V20. -/
theorem test_decFreq : accept timedOut [] 0xC000000012345678 (·.cfe) =
    some { Cfe.reset with res := 12345678, resv := true } := by decide
theorem test_decFreq_non_bcd : accept timedOut [] 0xC0000000000000FF (·.cfe.res) = some 165 := by decide
/-- V29, V31. -/
theorem test_parse_slot_missing :
    accept { timedOut with rxb := ⟨0x01, 0x42, 0x50, 0x00, 0x00⟩, rxv := ⟨true, true, true, false, false⟩ } []
      0xD000000000000000 (fun t => (t.cfe.res, t.cfe.resv, t.cfe.statusTo)) = some (0x0015BE68, false, false) := by decide
theorem test_parse_ignores_slot_4 :
    accept { timedOut with rxb := ⟨0x0A, 0x00, 0x00, 0x00, 0x00⟩, rxv := ⟨true, true, true, true, false⟩ } []
      0xD000000000000000 (fun t => (t.cfe.res, t.cfe.resv)) = some (10000000, true) := by decide
/-- V44, V58: an illegal word sets ILL and touches nothing else. -/
theorem test_illegal_word : accept { rawFrame with statusTo := true } [0x55] 0xF000000000000000
    (fun t => (t.cfe, t.rxq, t.txlog)) = some ({ rawFrame with statusIll := true }, [0x55], []) := by decide
/-- V60, cycle 1: accepting SEND_FRAME flushes and enters TX(0), with no byte offered. -/
theorem test_sendFrame_accept : accept timedOut [0x55] 0x7000000000000000
    (fun t => (t.cfe.phase, t.cfe.curOp, t.cfe.statusTo, t.rxq, t.txlog)) =
    some (.tx 0, .send, false, [], []) := by decide
/-- V67, V66. -/
theorem test_readReply_zero : accept { Cfe.reset with rxb := ⟨1, 2, 0, 0, 0⟩, rxv := ⟨true, true, false, false, false⟩ }
    [0x77] 0x8000000000000000 (fun t => (t.cfe.phase, t.cfe.rxb, t.cfe.rxv, t.rxq)) =
    some (.idle, ⟨0, 0, 0, 0, 0⟩, ⟨false, false, false, false, false⟩, [0x77]) := by decide
theorem test_readReply_keeps_queue : accept timedOut [0x77, 0x88] 0x8100000000000000
    (fun t => (t.cfe.phase, t.cfe.curLen, t.rxq)) = some (.rx 0, 1, [0x77, 0x88]) := by decide
/-- V71, cycle 1: the accept cycle flushes the stale byte. -/
theorem test_transact_flushes : accept rawFrame [0x55] 0x9100000000000000
    (fun t => (t.cfe.phase, t.cfe.curOp, t.cfe.curLen, t.rxq)) = some (.tx 0, .xact, 1, []) := by decide
/-- V73, cycle 0. -/
theorem test_singleByteCmd_accept : accept { rawFrame with res := 7, resv := true } [0x55] 0xA081000000000000
    (fun t => (t.cfe.phase, t.cfe.txf, t.cfe.res, t.cfe.resv, t.rxq)) =
    some (.tx 0, ⟨0x00, 0x00, 0x00, 0x00, 0x81⟩, 0, false, []) := by decide

/-- V61: `TXF[0]` is held while the transport is not ready, then taken. -/
theorem test_tx_holds : after (stateOf { rawFrame with phase := .tx 0 } [] [line false true []])
    (fun t => (t.cfe.phase, t.txlog)) = some (.tx 0, []) := by decide
theorem test_tx_takes : after (stateOf { rawFrame with phase := .tx 0 } [] [line true true []])
    (fun t => (t.cfe.phase, t.txlog)) = some (.tx 1, [0x12]) := by decide
/-- V72, cycle 6: the fifth byte ends TRANSACT 0, the reply registers are cleared, the arriving byte stays queued. -/
theorem test_tx_last_transact_zero :
    after (stateOf { rawFrame with phase := .tx 4, curOp := .xact, rxb := ⟨9, 0, 0, 0, 0⟩ } [] [line true true [0x00]])
      (fun t => (t.cfe.phase, t.cfe.rxb, t.rxq, t.txlog)) = some (.idle, ⟨0, 0, 0, 0, 0⟩, [0x00], [0x07]) := by decide
/-- V69, cycle 3: the byte beats the tick that would end the slot. -/
theorem test_rx_byte_beats_tick :
    after (stateOf { Cfe.reset with phase := .rx 0, curOp := .read, curLen := 2, tmr := 2 } [0xAB] [line false true []])
      (fun t => (t.cfe.phase, t.cfe.rxb.b0, t.cfe.rxv.b0, t.cfe.tmr, t.cfe.statusTo)) =
      some (.rx 1, 0xAB, true, 0, false) := by decide
/-- V68, cycle 3: the third tick ends the slot. -/
theorem test_rx_times_out :
    after (stateOf { Cfe.reset with phase := .rx 0, curOp := .read, curLen := 5, tmr := 2 } [] [line false true []])
      (fun t => (t.cfe.phase, t.cfe.statusTo)) = some (.idle, true) := by decide
/-- V73, cycle 7, with another byte value: SINGLE_BYTE_CMD delivers its reply. -/
theorem test_rx_single_byte :
    after (stateOf { Cfe.reset with phase := .rx 0, curOp := .sbc, curLen := 1, tmr := 1 } [0xF0] [line false true []])
      (fun t => (t.cfe.phase, t.cfe.res, t.cfe.resv)) = some (.idle, 0x000000F0, true) := by decide
/-- V76, cycle 3: reset in the middle of a frame. -/
theorem test_reset_mid_frame :
    after (stateOf { rawFrame with phase := .tx 1 } [0x11] [{ line true true [] with rst := true }])
      (fun t => (t.cfe, t.rxq, t.txlog)) = some (Cfe.reset, [0x11], []) := by decide

/-! Witnesses: for each obligation with hypotheses (named in the theorem), a state and operands that meet all of them -/

/-- IDLE with `cw` presented. -/
def offered (c : Cfe) (q : List Byte) (cw : CommandWord) : State :=
  stateOf c q [{ line true true [] with cmdValid := true, cmdWord := cw }]

theorem accepts_offered (c : Cfe) (q : List Byte) (cw : CommandWord) (h : c.phase = .idle) :
    (offered c q cw).Accepts cw := ⟨rfl, h, rfl, rfl⟩

/-- An IDLE state whose hidden and visible registers are not the reset values. -/
def usedCfe : Cfe where
  txf := ⟨0x00, 0xB1, 0x00, 0x00, 0xBB⟩
  rxb := ⟨0x10, 0x00, 0x00, 0x00, 0x00⟩
  rxv := ⟨true, false, false, false, false⟩
  res := 0x01425000
  resv := true
  statusIll := false
  statusTo := true
  phase := .idle
  curOp := .xact
  curLen := 2
  tmr := 0

/-- In the transmit phase of TRANSACT 2, byte `i` due. -/
def sending (i : Fin 5) : Cfe := { usedCfe with statusTo := false, phase := .tx i }

/-- In slot `k` of the reply phase of `op` with length `len`, the first slot still empty. -/
def waiting (op : CurOp) (len : BitVec 3) : Cfe :=
  { usedCfe with
    statusTo := false, rxb := ⟨0, 0, 0, 0, 0⟩, rxv := ⟨false, false, false, false, false⟩, phase := .rx 0
    curOp := op, curLen := len }

/-- The last slot of a reply of 5 bytes. -/
def lastSlot : Cfe :=
  { usedCfe with
    statusTo := false, rxb := ⟨1, 2, 3, 4, 0⟩, rxv := ⟨true, true, true, true, false⟩, phase := .rx 4, curLen := 5 }

theorem slotsFilled_of_check {c : Cfe} {m : Nat}
    (h : (List.finRange 5).all (fun j => (c.rxv.get j == decide (j.val < m)) && (c.rxv.get j || c.rxb.get j == 0)) = true) :
    SlotsFilled c m := by
  intro j
  have hj := List.all_eq_true.1 h j (List.mem_finRange j)
  by_cases hv : c.rxv.get j = true <;> simp_all

theorem timeout_pos : 0 < Config.params.tTimeout := params_lawful.1

/-- In slot 0, with the tick that reaches the ceiling. -/
def timingOut (op : CurOp) (len : BitVec 3) : State :=
  stateOf { waiting op len with tmr := Config.params.tTimeout - 1 } [] [line true true []]

theorem step_timing_out (op : CurOp) (len : BitVec 3) :
    step (timingOut op len) = .next (((timingOut op len).recordTimeout.finish none).endCycle Config.params) := by
  have h := timeout_pos
  have h1 : Config.params.tTimeout - 1 + 1 = Config.params.tTimeout := by omega
  rw [step_rx (k := 0) rfl rfl]
  simp [rxStep, State.rxWait, timingOut, stateOf, h1, State.inputs, line]

/-- The invariant holds in the middle of a reply phase. -/
theorem inv_waiting (len : BitVec 3) (tmr : Nat) (q : List Byte) (script : List Inputs) (hq : q.length ≤ 5)
    (ht : tmr < Config.params.tTimeout) (hl : len = 1 ∨ len = 2 ∨ len = 5) :
    Inv (stateOf { waiting .xact len with tmr := tmr } q script) where
  lenLegal := by
    show len = 0 ∨ len = 1 ∨ len = 2 ∨ len = 5
    exact .inr hl
  sendLen := by intro _ h; cases h
  sbcLen := by intro _ h; cases h
  inFlight := by
    refine ⟨?_, ?_, slotsFilled_of_check (by rfl)⟩
    · intro h; cases h
    show 0 < len.toNat
    obtain rfl | rfl | rfl := hl <;> decide
  slots := ⟨0, by omega, slotsFilled_of_check (by rfl)⟩
  timer := ht
  status := by intro h; cases h
  timeoutEnds := fun _ => rfl
  queue := Nat.le_trans hq params_lawful.2.2

theorem test_witness_DecodeOfEncodeIsTheCommand : (Instr.transact 5).wellFormed = true := rfl
theorem test_witness_EncodeOfDecodeIsTheWord : decode 0x50BC000000B25A20 = .ok (.buildNvmwr 0x00B2 0x5A 0x20 0xBC) := by
  decide
theorem test_witness_StepRunsTheDecodedCommand :
    (offered usedCfe [0x55] 0x9200000000000000).Accepts 0x9200000000000000 ∧
      decode 0x9200000000000000 = .ok (.transact 2) := ⟨accepts_offered _ _ _ rfl, by decide⟩
theorem test_witness_IllegalWordOnlySetsIll :
    (offered usedCfe [0x55] 0x8300000000000000).Accepts 0x8300000000000000 ∧ legal 0x8300000000000000 = false :=
  ⟨accepts_offered _ _ _ rfl, by decide⟩
theorem test_witness_AcceptedWordRewritesTheConditions :
    (offered usedCfe [] 0xF000000000000000).Accepts 0xF000000000000000 ∧
      (offered usedCfe [] 0x0000000000000000).Accepts 0x0000000000000000 :=
  ⟨accepts_offered _ _ _ rfl, accepts_offered _ _ _ rfl⟩
theorem test_witness_ResetSetsEveryRegisterAndNothingElse :
    (stateOf lastSlot [0x11] [{ line true true [] with rst := true }]).inputs.rst = true := rfl
/-- The reset cycle, then a cycle that presents a word, or none. -/
theorem test_witness_CycleAfterResetIsReady (v : Bool) :
    ∃ s t : State, s.inputs.rst = true ∧ step s = .next t ∧ t.inputs.rst = false ∧ t.inputs.cmdValid = v :=
  ⟨stateOf (sending 2) [] [{ line true true [] with rst := true }, { line true true [] with cmdValid := v }],
    _, rfl, rfl, rfl, rfl⟩
theorem test_witness_IdleCycleWithoutCommandChangesNothing :
    ∃ s : State, s.inputs.rst = false ∧ s.cfe.phase = .idle ∧ s.inputs.cmdValid = false :=
  ⟨stateOf usedCfe [0x11] [line true true [0x22]], rfl, rfl, rfl⟩
/-- A handshake, a flush and a pop, each with a byte arriving. -/
theorem test_witness_TransportFollowsThePorts :
    (∃ s t : State, s.NoOverflow ∧ step s = .next t ∧ s.txValid = true ∧ s.inputs.txReady = true) ∧
    (∃ s t : State, s.NoOverflow ∧ step s = .next t ∧ s.rxFlushPort = true ∧ s.rxq ≠ []) ∧
    (∃ s t : State, s.NoOverflow ∧ step s = .next t ∧ s.rxPopPort = true) := by
  have hd := params_lawful.2.2
  refine ⟨⟨stateOf (sending 4) [0x11] [line true true [0x22]], _, ?_, rfl, rfl, rfl⟩,
    ⟨stateOf usedCfe [0x11] [{ line true true [0x22] with cmdValid := true, cmdWord := 0x9200000000000000 }],
      _, ?_, rfl, rfl, by decide⟩,
    ⟨stateOf lastSlot [0x11, 0x33] [line true true [0x22]], _, ?_, rfl, rfl⟩⟩
  · show 2 ≤ Config.params.rxqDepth; omega
  · show 1 ≤ Config.params.rxqDepth; omega
  · show 2 ≤ Config.params.rxqDepth; omega
theorem test_witness_CommandPortHasNoEffectWhileBusy :
    ∃ (s : State) (i : Inputs), s.script = i :: [] ∧ s.cfe.busy = true :=
  ⟨stateOf (sending 0) [] [line true true []], _, rfl, rfl⟩
theorem test_witness_NopClearsTheConditionsAlone :
    opField 0x0000000000000001 = 0x0 ∧ (0x0000000000000001 : CommandWord) ≠ 0 := by decide
theorem test_witness_BuildNvmrdWritesTheReadFrame :
    opField 0x40BB000000B10001 = 0x4 ∧ (0x40BB000000B10001 : CommandWord).extractLsb' 0 16 ≠ 0#16 := by decide
theorem test_witness_BuildNvmwrWritesTheWriteFrame :
    decode (commandWord 0x5 0 0xBC 0 0x00B25A20) = .ok (.buildNvmwr 0x00B2 0x5A 0x20 0xBC) ∧
      decode (commandWord 0x2 0 0xBC 0 0x00B25A20) = .ok (.buildRaw 0x00 0xB2 0x5A 0x20 0xBC) := by decide
theorem test_witness_BuildToggleWritesTheToggleFrame :
    opField 0x6081000000000001 = 0x6 ∧ argField 0x6081000000000001 ≠ 0 := by decide
/-- The first and the last operation of the family. -/
theorem test_witness_FrameBuildersTouchOnlyTheFrame :
    ((offered usedCfe [0x55] 0x0000000000000000).Accepts 0x0000000000000000 ∧
      legal 0x0000000000000000 = true ∧ (opField 0x0000000000000000).toNat ≤ 6) ∧
    ((offered usedCfe [0x55] 0x6081000000000000).Accepts 0x6081000000000000 ∧
      legal 0x6081000000000000 = true ∧ (opField 0x6081000000000000).toNat ≤ 6) :=
  ⟨⟨accepts_offered _ _ _ rfl, by decide⟩, ⟨accepts_offered _ _ _ rfl, by decide⟩⟩
theorem test_witness_BcdDecodeStaysInRange : isBcd ⟨0x99, 0x99, 0x99, 0x99⟩ = true := by decide
theorem test_witness_DecodeOfEncodeIsModuloTenToTheEighth : (99999999 : Word32).toNat < 100000000 := by decide
/-- The last of the three operations and the first, the least and the greatest length. -/
theorem test_witness_AcceptSendStartsTheFrame :
    (0#4 ∈ [0#4, 1#4, 2#4, 5#4] ∧ 5#4 ∈ [0#4, 1#4, 2#4, 5#4]) ∧
    ((offered usedCfe [0x55] 0x7000000000000000).Accepts 0x7000000000000000 ∧ legal 0x7000000000000000 = true ∧
      opField 0x7000000000000000 ∈ [0x7#4, 0x9#4, 0xA#4]) ∧
    ((offered usedCfe [0x55] 0xA081000000000000).Accepts 0xA081000000000000 ∧ legal 0xA081000000000000 = true ∧
      opField 0xA081000000000000 ∈ [0x7#4, 0x9#4, 0xA#4]) :=
  ⟨by decide, ⟨accepts_offered _ _ _ rfl, by decide⟩, ⟨accepts_offered _ _ _ rfl, by decide⟩⟩
theorem test_witness_AcceptReadStartsTheReplyPhase :
    (0#4 ∈ [0#4, 1#4, 2#4, 5#4] ∧ 5#4 ∈ [0#4, 1#4, 2#4, 5#4]) ∧
    (offered usedCfe [0x55] 0x8500000000000000).Accepts 0x8500000000000000 ∧ opField 0x8500000000000000 = 0x8 :=
  ⟨by decide, accepts_offered _ _ _ rfl, by decide⟩
theorem test_witness_OtherReplyLengthsAreIllegal :
    3#4 ∉ [0#4, 1#4, 2#4, 5#4] ∧ 6#4 ∉ [0#4, 1#4, 2#4, 5#4] ∧ 15#4 ∉ [0#4, 1#4, 2#4, 5#4] := by decide
/-- Held; taken with a byte to follow; the last byte of SEND_FRAME; the last byte of another command. -/
theorem test_witness_TxStepOffersOneByte :
    (∃ s : State, s.inputs.rst = false ∧ s.cfe.phase = .tx 0 ∧ s.inputs.txReady = false) ∧
    (∃ s : State, ∃ j : Fin 5, s.inputs.rst = false ∧ s.cfe.phase = .tx 3 ∧ s.inputs.txReady = true ∧
      j.val = (3 : Fin 5).val + 1) ∧
    (∃ s : State, s.inputs.rst = false ∧ s.cfe.phase = .tx 4 ∧ s.inputs.txReady = true ∧ s.cfe.curOp = .send) ∧
    (∃ s : State, s.inputs.rst = false ∧ s.cfe.phase = .tx 4 ∧ s.inputs.txReady = true ∧ s.cfe.curOp ≠ .send) :=
  ⟨⟨stateOf (sending 0) [] [line false true []], rfl, rfl, rfl⟩,
    ⟨stateOf (sending 3) [] [line true true []], 4, rfl, rfl, rfl, rfl⟩,
    ⟨stateOf { sending 4 with curOp := .send, curLen := 0 } [] [line true true []], rfl, rfl, rfl, rfl⟩,
    ⟨stateOf (sending 4) [] [line true true []], rfl, rfl, rfl, by decide⟩⟩
/-- A slot with another to follow, and the last slot, slot 4. -/
theorem test_witness_RxStepTakesAnAvailableByte :
    (∃ (s : State) (b : Byte) (j : Fin 5), s.inputs.rst = false ∧ s.cfe.phase = .rx 0 ∧ s.rxq = b :: [] ∧
      j.val = (0 : Fin 5).val + 1 ∧ (0 : Fin 5).val + 1 ≠ s.cfe.curLen.toNat) ∧
    (∃ (s : State) (b : Byte), s.inputs.rst = false ∧ s.cfe.phase = .rx 4 ∧ s.rxq = b :: [] ∧
      (4 : Fin 5).val + 1 = s.cfe.curLen.toNat) :=
  ⟨⟨stateOf (waiting .xact 2) [0x10] [line true true []], 0x10, 1, rfl, rfl, rfl, rfl, by decide⟩,
    ⟨stateOf lastSlot [0x55] [line true true []], 0x55, rfl, rfl, rfl, rfl⟩⟩
/-- No tick; a tick below the ceiling (where `T_TIMEOUT` is above 1); the tick that reaches it. -/
theorem test_witness_RxStepCountsTicksToTheCeiling :
    (∃ s : State, s.inputs.rst = false ∧ s.cfe.phase = .rx 4 ∧ s.rxq = [] ∧ s.cfe.tmr < Config.params.tTimeout ∧
      s.inputs.tick = false) ∧
    (1 < Config.params.tTimeout →
      ∃ s : State, s.inputs.rst = false ∧ s.cfe.phase = .rx 0 ∧ s.rxq = [] ∧ s.cfe.tmr < Config.params.tTimeout ∧
        s.inputs.tick = true ∧ s.cfe.tmr + 1 ≠ Config.params.tTimeout) ∧
    (∃ s : State, s.inputs.rst = false ∧ s.cfe.phase = .rx 0 ∧ s.rxq = [] ∧ s.cfe.tmr < Config.params.tTimeout ∧
      s.inputs.tick = true ∧ s.cfe.tmr + 1 = Config.params.tTimeout) := by
  have ht := timeout_pos
  refine ⟨⟨stateOf lastSlot [] [line true false []], rfl, rfl, rfl, ht, rfl⟩,
    fun h1 => ⟨stateOf (waiting .xact 2) [] [line true true []], rfl, rfl, rfl, ht, rfl, ?_⟩,
    ⟨stateOf { waiting .sbc 1 with tmr := Config.params.tTimeout - 1 } [] [line true true []], rfl, rfl, rfl, ?_, rfl, ?_⟩⟩
  · show 0 + 1 ≠ _; omega
  · show _ - 1 < _; omega
  · show _ - 1 + 1 = _; omega
/-- SINGLE_BYTE_CMD with its byte, SINGLE_BYTE_CMD timed out, another command. -/
theorem test_witness_FinishDeliversTheSingleByte :
    (∃ (s t : State) (b : Byte), s.inputs.rst = false ∧ s.cfe.phase = .rx 0 ∧ step s = .next t ∧
      (∀ j, t.cfe.phase ≠ .rx j) ∧ s.cfe.curOp = .sbc ∧ s.rxq = b :: []) ∧
    (∃ s t : State, s.inputs.rst = false ∧ s.cfe.phase = .rx 0 ∧ step s = .next t ∧
      (∀ j, t.cfe.phase ≠ .rx j) ∧ s.cfe.curOp = .sbc ∧ s.rxq = []) ∧
    (∃ s t : State, s.inputs.rst = false ∧ s.cfe.phase = .rx 4 ∧ step s = .next t ∧
      (∀ j, t.cfe.phase ≠ .rx j) ∧ s.cfe.curOp ≠ .sbc) := by
  have ht := timeout_pos
  refine ⟨⟨stateOf (waiting .sbc 1) [0x42] [line true true []], _, 0x42, rfl, rfl, rfl, (by intro j h; cases h), rfl, rfl⟩,
    ?_, ⟨stateOf lastSlot [0x42] [line true true []], _, rfl, rfl, rfl, (by intro j h; cases h), by decide⟩⟩
  exact ⟨_, _, rfl, rfl, step_timing_out .sbc 1, (by intro j h; cases h), rfl, rfl⟩
/-- From the first byte with nothing sent, and up to the last byte. -/
theorem test_witness_TransmitSendsOneByteEachReadyCycle :
    (∃ s : State, s.cfe.phase = .tx 0 ∧ s.NoReset 3 ∧ (0 : Fin 5).val + s.countInputs (·.txReady) 0 3 < 5) ∧
    (∃ s : State, s.cfe.phase = .tx 4 ∧ s.NoReset 3 ∧ (4 : Fin 5).val + s.countInputs (·.txReady) 0 3 < 5) :=
  ⟨⟨stateOf (sending 0) [] (List.replicate 3 (line true true [])), rfl, by unfold State.NoReset; decide, by decide⟩,
    ⟨stateOf (sending 4) [] (List.replicate 3 (line false true [])), rfl, by unfold State.NoReset; decide, by decide⟩⟩

/-- `m` cycles with the same inputs. -/
def steady (c : Cfe) (q : List Byte) (m : Nat) (i : Inputs) : State := stateOf c q (List.replicate m i)

theorem inputsAt_steady {c : Cfe} {q : List Byte} {m j : Nat} {i : Inputs} (h : j < m) :
    (steady c q m i).inputsAt j = i := by
  simp [steady, State.inputsAt, stateOf, h]

theorem countInputs_steady {c : Cfe} {q : List Byte} {m start n : Nat} {i : Inputs} {f : Inputs → Bool}
    (h : start + n ≤ m) (hf : f i = true) : (steady c q m i).countInputs f start n = n := by
  unfold State.countInputs
  rw [List.countP_eq_length.2]
  · simp
  · intro j hj
    have hj := List.mem_range.1 hj
    rw [inputsAt_steady (by omega)]
    exact hf

/-- `cw` presented, then five ready cycles, in the last of which `A` arrives, then five quiet ones. -/
def exchange (cw : CommandWord) (A : List Byte) : State :=
  stateOf usedCfe [0x55]
    ({ line true true [] with cmdValid := true, cmdWord := cw } :: List.replicate 4 (line true true []) ++
      line true true A :: List.replicate 5 (line false false []))

theorem test_witness_SendFrameSendsTheFrameInSixCycles :
    (exchange 0x7000000000000000 []).Accepts 0x7000000000000000 ∧ (exchange 0x7000000000000000 []).NoReset 6 ∧
      ∀ j < 5, ((exchange 0x7000000000000000 []).inputsAt (j + 1)).txReady = true :=
  ⟨⟨rfl, rfl, rfl, rfl⟩, by unfold State.NoReset; decide, by decide⟩
/-- A reply collected in part, a reply collected whole, and a reply that never comes. -/
theorem test_witness_ReplyPhaseFillsSlotsInQueueOrder :
    (∃ s t : State, Inv s ∧ s.cfe.phase = .rx 0 ∧ s.NoReset 1 ∧ InReply 1 s ∧ run 1 s = .next t ∧
      t.cfe.phase = .rx 1) ∧
    (∃ s t : State, Inv s ∧ s.cfe.phase = .rx 0 ∧ s.NoReset 1 ∧ InReply 1 s ∧ run 1 s = .next t ∧
      (∀ k, t.cfe.phase ≠ .rx k) ∧ t.cfe.statusTo = false) ∧
    (∃ s t : State, Inv s ∧ s.cfe.phase = .rx 0 ∧ s.NoReset 1 ∧ InReply 1 s ∧ run 1 s = .next t ∧
      (∀ k, t.cfe.phase ≠ .rx k) ∧ t.cfe.statusTo = true) := by
  have ht := timeout_pos
  refine ⟨⟨stateOf (waiting .xact 2) [0x10] [line true true []], _, inv_waiting 2 0 _ _ (by decide) ht (.inr (.inl rfl)),
      rfl, by unfold State.NoReset; decide, ⟨⟨0, rfl⟩, trivial⟩, rfl, rfl⟩,
    ⟨stateOf (waiting .xact 1) [0x10] [line true true []], _, inv_waiting 1 0 _ _ (by decide) ht (.inl rfl),
      rfl, by unfold State.NoReset; decide, ⟨⟨0, rfl⟩, trivial⟩, rfl, (by intro k h; cases h), rfl⟩,
    ⟨timingOut .xact 5, _, inv_waiting 5 _ _ _ (by decide) (by omega) (.inr (.inr rfl)),
      rfl, ?_, ⟨⟨0, rfl⟩, ?_⟩, run_succ (step_timing_out .xact 5) 0, (by intro k h; cases h), rfl⟩⟩
  · intro j hj
    obtain rfl : j = 0 := by omega
    rfl
  · rw [step_timing_out]
    trivial
/-- Every tick but the `T_TIMEOUT`-th, then that one. -/
theorem test_witness_SlotTimesOutAtTheCeilingthTick :
    ∃ (s : State) (n : Nat), s.cfe.phase = .rx 0 ∧ s.cfe.tmr = 0 ∧ s.rxq = [] ∧ s.NoReset (n + 1) ∧ s.NoArrival n ∧
      s.countInputs (·.tick) 0 n < Config.params.tTimeout ∧ (s.inputsAt n).tick = true ∧
      s.countInputs (·.tick) 0 n + 1 = Config.params.tTimeout := by
  have ht := timeout_pos
  obtain ⟨n, hn⟩ : ∃ n, n + 1 = Config.params.tTimeout := ⟨_, Nat.succ_pred_eq_of_pos ht⟩
  have hc : (steady (waiting .xact 2) [] (n + 1) (line false true [])).countInputs (·.tick) 0 n = n :=
    countInputs_steady (by omega) rfl
  refine ⟨steady (waiting .xact 2) [] (n + 1) (line false true []), n, rfl, rfl, rfl, ?_, ?_, by omega, ?_, by omega⟩
  · intro j hj
    rw [inputsAt_steady hj]
    rfl
  · intro j hj
    rw [inputsAt_steady (by omega)]
    rfl
  · rw [inputsAt_steady (by omega)]
    rfl
/-- The least and the greatest length. -/
theorem test_witness_QueuedReplyTakesOneCycleEachByte :
    (∃ s : State, Inv s ∧ s.cfe.phase = .rx 0 ∧ 1 = s.cfe.curLen.toNat ∧ 1 ≤ s.rxq.length ∧ s.NoReset 1 ∧
      s.NoArrival 1) ∧
    (∃ s : State, Inv s ∧ s.cfe.phase = .rx 0 ∧ 5 = s.cfe.curLen.toNat ∧ 5 ≤ s.rxq.length ∧ s.NoReset 5 ∧
      s.NoArrival 5) :=
  ⟨⟨steady (waiting .xact 1) [1] 1 (line true true []), inv_waiting 1 0 _ _ (by decide) timeout_pos (.inl rfl), rfl,
      rfl, by decide, by unfold State.NoReset; decide, by unfold State.NoArrival; decide⟩,
    ⟨steady (waiting .xact 5) [1, 2, 3, 4, 5] 5 (line true true []),
      inv_waiting 5 0 _ _ (by decide) timeout_pos (.inr (.inr rfl)), rfl,
      rfl, by decide, by unfold State.NoReset; decide, by unfold State.NoArrival; decide⟩⟩
/-- The greatest length with its reply, and length 0 with a byte that stays queued. -/
theorem test_witness_TransactSendsTheFrameAndCollectsTheReply :
    (∃ s : State, s.Accepts (commandWord 0x9 5 0 0 0) ∧ s.NoReset 11 ∧ (∀ j < 5, (s.inputsAt (j + 1)).txReady = true) ∧
      (s.inputsAt 5).arrivals = [1, 2, 3, 4, 5] ∧ ∀ j < 11, j ≠ 5 → (s.inputsAt j).arrivals = []) ∧
    (∃ s : State, s.Accepts (commandWord 0x9 0 0 0 0) ∧ s.NoReset 6 ∧ (∀ j < 5, (s.inputsAt (j + 1)).txReady = true) ∧
      (s.inputsAt 5).arrivals = [0] ∧ ∀ j < 6, j ≠ 5 → (s.inputsAt j).arrivals = []) :=
  ⟨⟨exchange (commandWord 0x9 5 0 0 0) [1, 2, 3, 4, 5], ⟨rfl, rfl, rfl, rfl⟩, by unfold State.NoReset; decide, by decide,
      rfl, by decide⟩,
    ⟨exchange (commandWord 0x9 0 0 0 0) [0], ⟨rfl, rfl, rfl, rfl⟩, by unfold State.NoReset; decide, by decide,
      rfl, by decide⟩⟩
theorem test_witness_SingleByteCommandReturnsItsReply :
    ∃ s : State, s.Accepts (commandWord 0xA 0 0x81 0 0) ∧ s.NoReset 7 ∧ (∀ j < 5, (s.inputsAt (j + 1)).txReady = true) ∧
      (s.inputsAt 5).arrivals = [0xF0] ∧ ∀ j < 7, j ≠ 5 → (s.inputsAt j).arrivals = [] :=
  ⟨exchange (commandWord 0xA 0 0x81 0 0) [0xF0], ⟨rfl, rfl, rfl, rfl⟩, by unfold State.NoReset; decide, by decide,
    rfl, by decide⟩
theorem test_witness_CommandEndsWithReadinessAndTicks :
    ∃ (s : State) (m : Nat), Inv s ∧ s.cfe.busy = true ∧ s.NoReset (5 + m) ∧ 5 ≤ s.countInputs (·.txReady) 0 5 ∧
      5 * Config.params.tTimeout ≤ s.countInputs (·.tick) 5 m := by
  refine ⟨steady (waiting .xact 5) [] (5 + 5 * Config.params.tTimeout) (line true true []), 5 * Config.params.tTimeout,
    inv_waiting 5 0 _ _ (by decide) timeout_pos (.inr (.inr rfl)), rfl, ?_, ?_, ?_⟩
  · intro j hj
    rw [inputsAt_steady hj]
    rfl
  · rw [countInputs_steady (by omega) rfl]
  · rw [countInputs_steady (Nat.le_refl _) rfl]
/-- The accept cycles, then a cycle of the common transaction that finishes it. -/
theorem test_witness_ToggleIsBuildToggleThenTransact :
    (∃ s b x y : State, exec (.buildToggle 0x81) s = .next b ∧ exec (.transact 1) b = .next y ∧
      exec (.singleByteCmd 0x81) s = .next x) ∧
    (∃ s t s' : State, SameTransaction s t ∧ s.cfe.busy = true ∧ s.inputs.rst = false ∧ step s = .next s' ∧
      s'.cfe.res ≠ t.cfe.res) :=
  ⟨⟨stateOf usedCfe [0x55] [], _, _, _, rfl, rfl, rfl⟩,
    ⟨stateOf (waiting .sbc 1) [0xF0] [line true true []], stateOf (waiting .xact 1) [0xF0] [line true true []], _,
      ⟨rfl, rfl, rfl⟩, rfl, rfl, rfl, by decide⟩⟩
theorem test_witness_EveryStepKeepsTheInvariant : ∃ s t : State, Inv s ∧ step s = .next t ∧ t.cfe.phase = .rx 1 :=
  ⟨stateOf (waiting .xact 2) [0x10] [line true true []], _, inv_waiting 2 0 _ _ (by decide) timeout_pos (.inr (.inl rfl)),
    rfl, rfl⟩
theorem test_witness_MachineNeverStops : ∃ s : State, Inv s ∧ s.cfe.busy = true :=
  ⟨stateOf (waiting .xact 2) [0x10] [], inv_waiting 2 0 _ _ (by decide) timeout_pos (.inr (.inl rfl)), rfl⟩
/-- One whole frame and four bytes of the next have been taken, and the fifth is. -/
theorem test_witness_EveryStepKeepsWholeFrames :
    ∃ s t : State, s.inputs.rst = false ∧ WholeFrames s ∧ step s = .next t ∧ t.txlog.length = 10 :=
  ⟨{ stateOf (sending 4) [] [line true true []] with txlog := [1, 2, 3, 4, 5, 0x00, 0xB1, 0x00, 0x00] }, _, rfl,
    ⟨[⟨1, 2, 3, 4, 5⟩], rfl⟩, rfl, rfl⟩
theorem test_witness_OnlyBuildersAndSingleByteWriteTxf :
    ∃ s t : State, s.inputs.rst = false ∧ step s = .next t ∧ t.cfe.txf ≠ s.cfe.txf :=
  ⟨offered usedCfe [] 0xA081000000000000, _, rfl, rfl, by decide⟩
/-- READ_REPLY accepted; the last frame byte taken; a byte for the slot. -/
theorem test_witness_OnlyTheReplyPhaseWritesTheReplyRegisters :
    (∃ s t : State, s.inputs.rst = false ∧ s.cfe.phase = .idle ∧ step s = .next t ∧ t.cfe.rxb ≠ s.cfe.rxb) ∧
    (∃ s t : State, s.inputs.rst = false ∧ s.cfe.phase = .tx 4 ∧ step s = .next t ∧ t.cfe.rxv ≠ s.cfe.rxv) ∧
    (∃ s t : State, s.inputs.rst = false ∧ s.cfe.phase = .rx 0 ∧ step s = .next t ∧ t.cfe.rxb ≠ s.cfe.rxb) :=
  ⟨⟨offered usedCfe [] 0x8000000000000000, _, rfl, rfl, rfl, by decide⟩,
    ⟨stateOf (sending 4) [] [line true true []], _, rfl, rfl, rfl, by decide⟩,
    ⟨stateOf (waiting .xact 2) [0x10] [line true true []], _, rfl, rfl, rfl, by decide⟩⟩
theorem test_witness_OnlyCodecAndSingleByteWriteRes :
    (∃ s t : State, s.inputs.rst = false ∧ s.cfe.phase = .idle ∧ step s = .next t ∧ t.cfe.res ≠ s.cfe.res) ∧
    (∃ s t : State, s.inputs.rst = false ∧ s.cfe.phase = .rx 0 ∧ step s = .next t ∧ t.cfe.res ≠ s.cfe.res) :=
  ⟨⟨offered usedCfe [] 0xB0000000FFFFFFFF, _, rfl, rfl, rfl, by decide⟩,
    ⟨stateOf (waiting .sbc 1) [0xF0] [line true true []], _, rfl, rfl, rfl, by decide⟩⟩
theorem test_witness_OnlyDispatcherCommandsWriteCurOpAndCurLen :
    ∃ s t : State, s.inputs.rst = false ∧ step s = .next t ∧ t.cfe.curOp ≠ s.cfe.curOp ∧ t.cfe.curLen ≠ s.cfe.curLen :=
  ⟨offered usedCfe [] 0x7000000000000000, _, rfl, rfl, by decide, by decide⟩
/-- The first and the last byte offered; none offered in a cycle of reset, though `PHASE` is TX. -/
theorem test_witness_OutputPortsShowTheRegisters :
    (∃ s : State, s.cfe.phase = .tx 0 ∧ s.outputs.txValid = true) ∧
    (∃ s : State, s.cfe.phase = .tx 4 ∧ s.outputs.txValid = true) ∧
    (∃ s : State, s.cfe.phase = .tx 4 ∧ s.outputs.txValid = false) :=
  ⟨⟨stateOf (sending 0) [] [line true true []], rfl, rfl⟩, ⟨stateOf (sending 4) [] [line true true []], rfl, rfl⟩,
    ⟨stateOf (sending 4) [] [{ line true true [] with rst := true }], rfl, rfl⟩⟩
theorem test_witness_ControlPortsFollowThePhase :
    (offered usedCfe [0x55] 0x9200000000000000).inputs.cmdValid = true := rfl
/-- Three hidden registers differ while IDLE, the timer differs while sending. -/
theorem test_witness_HiddenRegistersNeverShow :
    (∃ s t s' : State, HiddenEq s t ∧ s ≠ t ∧ step s = .next s') ∧
    (∃ s t s' : State, HiddenEq s t ∧ s ≠ t ∧ step s = .next s' ∧ s.cfe.busy = true) :=
  ⟨⟨offered usedCfe [0x55] 0x9200000000000000,
      offered { usedCfe with curOp := .send, curLen := 0, tmr := 7 } [0x55] 0x9200000000000000, _,
      ⟨rfl, rfl, rfl, rfl, rfl⟩, by decide, rfl⟩,
    ⟨stateOf (sending 4) [] [line true true []], stateOf { sending 4 with tmr := 7 } [] [line true true []], _,
      ⟨rfl, rfl, rfl, rfl, rfl⟩, by decide, rfl, rfl⟩⟩

end Sys2Proof.Tests
end

section
/-! The decoder's verdict, and what each kind of cycle writes. -/

namespace Sys2Proof.Machine

open Sys2Proof.Laws (opCode)

/-! The decoder: each check passes exactly when its field is as it must be -/

section
variable {cw : CommandWord} {r : Except DecodeError Instr} {i : Instr}

@[simp] theorem whenLenZero_eq_ok : whenLenZero cw r = .ok i ↔ lenField cw = 0 ∧ r = .ok i := by
  unfold whenLenZero; split <;> simp_all

@[simp] theorem whenLenLegal_eq_ok : whenLenLegal cw r = .ok i ↔ legalLen (lenField cw) = true ∧ r = .ok i := by
  unfold whenLenLegal; split <;> simp_all

@[simp] theorem whenOpcZero_eq_ok : whenOpcZero cw r = .ok i ↔ opcField cw = 0 ∧ r = .ok i := by
  unfold whenOpcZero; split <;> simp_all

@[simp] theorem whenArgZero_eq_ok : whenArgZero cw r = .ok i ↔ argField cw = 0 ∧ r = .ok i := by
  unfold whenArgZero; split <;> simp_all

@[simp] theorem whenArgLowZero_eq_ok : whenArgLowZero cw r = .ok i ↔ argLow (argField cw) = 0 ∧ r = .ok i := by
  unfold whenArgLowZero; split <;> simp_all

end

/-- A word that decodes is legal, and its OP field is the operation code of its command (30_encoding.md R71, R77). -/
theorem legal_and_opField_of_decode {cw : CommandWord} {i : Instr} (h : decode cw = .ok i) :
    legal cw = true ∧ opField cw = opCode i := by
  unfold decode at h
  dsimp only at h
  split at h
  case isFalse => cases h
  case isTrue hrsv =>
    split at h
    case h_15 => cases h
    all_goals
      rename_i hop
      simp only [whenLenZero_eq_ok, whenLenLegal_eq_ok, whenOpcZero_eq_ok, whenArgZero_eq_ok, whenArgLowZero_eq_ok,
        Except.ok.injEq] at h
      refine ⟨by simp [legal, hrsv, hop, h], BitVec.eq_of_toNat_eq (hop.trans ?_)⟩
      grind [opCode]

/-- What accepting a word can do: perform the command it decodes to, or record that it is illegal
(30_encoding.md R78, 42_dispatcher.md R163). -/
theorem acceptWord_cases {cw : CommandWord} {s u : State} (h : acceptWord cw s = .next u) :
    (∃ i, decode cw = .ok i ∧ exec i s = .next u) ∨ u = s.recordIllegal := by
  unfold acceptWord at h
  cases hd : decode cw with
  | ok i => rw [hd] at h; exact .inl ⟨i, rfl, h⟩
  | error e => rw [hd] at h; cases h; exact .inr rfl

/-- What a step that goes on did before the cycle ended, by reset and phase (42_dispatcher.md R163). -/
theorem step_next_cases {s t : State} (h : step s = .next t) :
    ∃ u : State, t = u.endCycle Config.params ∧
      ((s.inputs.rst = true ∧ u = s.resetCfe) ∨
       (∃ cw, s.Accepts cw ∧
          ((∃ i, decode cw = .ok i ∧ exec i s = .next u) ∨ u = s.recordIllegal)) ∨
       (s.inputs.rst = false ∧ s.cfe.phase = .idle ∧ u = s) ∨
       (∃ i, s.inputs.rst = false ∧ s.cfe.phase = .tx i ∧ u = s.txStep i) ∨
       (∃ k, s.inputs.rst = false ∧ s.cfe.phase = .rx k ∧ rxStep Config.params k s = .next u)) := by
  obtain ⟨hr, h1⟩ | ⟨cw, ha, h1⟩ | ⟨hr, hp, -, h1⟩ | ⟨i, hr, hp, h1⟩ | ⟨k, hr, hp, h1⟩ := step_cases s <;>
    rw [h1] at h
  · cases h; exact ⟨_, rfl, .inl ⟨hr, rfl⟩⟩
  · obtain ⟨u, hu, rfl⟩ := onNext_eq_next.1 h
    exact ⟨u, rfl, .inr (.inl ⟨cw, ha, acceptWord_cases hu⟩)⟩
  · cases h; exact ⟨_, rfl, .inr (.inr (.inl ⟨hr, hp, rfl⟩))⟩
  · cases h; exact ⟨_, rfl, .inr (.inr (.inr (.inl ⟨i, hr, hp, rfl⟩)))⟩
  · obtain ⟨u, hu, rfl⟩ := onNext_eq_next.1 h
    exact ⟨u, rfl, .inr (.inr (.inr (.inr ⟨k, hr, hp, hu⟩)))⟩

/-! What each kind of cycle may write of the registers that only commands write -/

/-- What accepting a legal word with operation code `op` may write of the registers before, `c`, to the registers after, `d`
(10_state.md R22 to R26, R29). -/
structure CommandWrites (op : BitVec 4) (c d : Cfe) : Prop where
  frame : d.txf = c.txf ∨ op ∈ [0x1#4, 0x2#4, 0x3#4, 0x4#4, 0x5#4, 0x6#4, 0xA#4]
  reply : (d.rxb = c.rxb ∧ d.rxv = c.rxv) ∨ op = 0x8
  result : (d.res = c.res ∧ d.resv = c.resv) ∨ op ∈ [0xA#4, 0xB#4, 0xC#4, 0xD#4]
  command : (d.curOp = c.curOp ∧ d.curLen = c.curLen) ∨ op ∈ [0x7#4, 0x8#4, 0x9#4, 0xA#4]

/-- What a transmit step may write (42_dispatcher.md R165, R166): the reply registers, as the last frame byte is taken. -/
structure TxWrites (s : State) (i : Fin 5) (d : Cfe) : Prop where
  frame : d.txf = s.cfe.txf
  reply : (d.rxb = s.cfe.rxb ∧ d.rxv = s.cfe.rxv) ∨ (i = 4 ∧ s.inputs.txReady = true ∧ s.cfe.curOp ≠ .send)
  result : d.res = s.cfe.res ∧ d.resv = s.cfe.resv
  command : d.curOp = s.cfe.curOp ∧ d.curLen = s.cfe.curLen

/-- What a reply step may write (42_dispatcher.md R167 to R169): its own slot, from the head of the receive queue, and the
result as SINGLE_BYTE_CMD finishes. -/
structure RxWrites (s : State) (k : Fin 5) (d : Cfe) : Prop where
  frame : d.txf = s.cfe.txf
  reply : (d.rxb = s.cfe.rxb ∧ d.rxv = s.cfe.rxv) ∨
    (∃ b q, s.rxq = b :: q ∧ d.rxb = s.cfe.rxb.set k b ∧ d.rxv = s.cfe.rxv.set k true)
  result : (d.res = s.cfe.res ∧ d.resv = s.cfe.resv) ∨ (s.cfe.curOp = .sbc ∧ d.phase = .idle)
  command : d.curOp = s.cfe.curOp ∧ d.curLen = s.cfe.curLen

theorem exec_writes {i : Instr} {s u : State} (h : exec i s = .next u) : CommandWrites (opCode i) s.cfe u.cfe := by
  cases i with
  | readReply len =>
    simp only [exec, execReadReply] at h
    split at h <;> cases h <;> constructor <;> simp [opCode]
  | transact len =>
    simp only [exec, execTransact] at h
    split at h <;> cases h <;> constructor <;> simp [opCode, State.acceptSend]
  | _ => cases h; constructor <;> simp [opCode, State.acceptSend]

theorem txStep_writes (s : State) (i : Fin 5) : TxWrites s i (s.txStep i).cfe := by
  obtain ⟨-, h⟩ | ⟨-, j, -, h⟩ | ⟨-, -, -, h⟩ | ⟨hr, hi, hop, h⟩ := txStep_cases s i <;> rw [h]
  case inr.inr.inr => exact ⟨rfl, .inr ⟨hi, hr, hop⟩, ⟨rfl, rfl⟩, ⟨rfl, rfl⟩⟩
  all_goals exact ⟨rfl, .inl ⟨rfl, rfl⟩, ⟨rfl, rfl⟩, ⟨rfl, rfl⟩⟩

/-- `Finish()` writes `PHASE`, and `RES` and `RESV` only for SINGLE_BYTE_CMD (42_dispatcher.md R169). -/
theorem finish_writes (s : State) (got : Option Byte) :
    ∃ r v, (s.finish got).cfe = { s.cfe with phase := .idle, res := r, resv := v } ∧
      ((r = s.cfe.res ∧ v = s.cfe.resv) ∨ s.cfe.curOp = .sbc) := by
  obtain ⟨hop, h⟩ | ⟨-, h⟩ := finish_cases s got <;> rw [h]
  · exact ⟨_, _, rfl, .inr hop⟩
  · exact ⟨_, _, rfl, .inl ⟨rfl, rfl⟩⟩

theorem rxStep_writes {p : Params} {k : Fin 5} {s u : State} (h : rxStep p k s = .next u) : RxWrites s k u.cfe := by
  obtain ⟨b, q, hq, -, h1⟩ | ⟨b, q, j, hq, -, -, h1⟩ | ⟨-, -, -, h1⟩ | ⟨-, -, -, h1⟩ | ⟨-, -, -, h1⟩ | ⟨-, -, h1⟩ :=
    rxStep_cases p k s <;> rw [h1] at h <;> cases h
  · obtain ⟨r, v, hc, hw⟩ := finish_writes (((s.rxPop).fillSlot k b).setTmr 0) (some b)
    rw [hc]
    exact ⟨rfl, .inr ⟨b, q, hq, rfl, rfl⟩, hw.imp id fun hop => ⟨hop, rfl⟩, ⟨rfl, rfl⟩⟩
  · exact ⟨rfl, .inr ⟨b, q, hq, rfl, rfl⟩, .inl ⟨rfl, rfl⟩, ⟨rfl, rfl⟩⟩
  · obtain ⟨r, v, hc, hw⟩ := finish_writes s.recordTimeout none
    rw [hc]
    exact ⟨rfl, .inl ⟨rfl, rfl⟩, hw.imp id fun hop => ⟨hop, rfl⟩, ⟨rfl, rfl⟩⟩
  · exact ⟨rfl, .inl ⟨rfl, rfl⟩, .inl ⟨rfl, rfl⟩, ⟨rfl, rfl⟩⟩
  · exact ⟨rfl, .inl ⟨rfl, rfl⟩, .inl ⟨rfl, rfl⟩, ⟨rfl, rfl⟩⟩

/-- What a step that is no reset may write: a legal word is accepted, or at most ILL and TO change (no word or an illegal
one), or it is a transmit step, or a reply step (42_dispatcher.md R163, 30_encoding.md R78). -/
theorem step_writes {s t : State} (hr : s.inputs.rst = false) (h : step s = .next t) :
    (∃ cw, s.Accepts cw ∧ legal cw = true ∧ CommandWrites (opField cw) s.cfe t.cfe) ∨
    (∃ ill tmo, t.cfe = { s.cfe with statusIll := ill, statusTo := tmo }) ∨
    (∃ i, s.cfe.phase = .tx i ∧ TxWrites s i t.cfe) ∨
    (∃ k, s.cfe.phase = .rx k ∧ RxWrites s k t.cfe) := by
  obtain ⟨u, rfl, hu⟩ := step_next_cases h
  rw [endCycle_cfe]
  obtain ⟨hrst, -⟩ | ⟨cw, ha, ⟨i, hd, hx⟩ | rfl⟩ | ⟨-, -, rfl⟩ | ⟨i, -, hp, rfl⟩ | ⟨k, -, hp, hx⟩ := hu
  · rw [hr] at hrst; cases hrst
  · obtain ⟨hl, hop⟩ := legal_and_opField_of_decode hd
    exact .inl ⟨cw, ha, hl, hop ▸ exec_writes hx⟩
  · exact .inr (.inl ⟨_, _, rfl⟩)
  · exact .inr (.inl ⟨_, _, rfl⟩)
  · exact .inr (.inr (.inl ⟨i, hp, txStep_writes s i⟩))
  · exact .inr (.inr (.inr ⟨k, hp, rxStep_writes hx⟩))

/-- Settles O53: of the kinds of cycles only the acceptance of a frame builder or of SINGLE_BYTE_CMD writes `TXF`. -/
theorem onlyBuildersAndSingleByteWriteTxf : Obligations.OnlyBuildersAndSingleByteWriteTxf := by
  intro s t hr h hne
  obtain ⟨cw, ha, hl, hw⟩ | ⟨ill, tmo, hc⟩ | ⟨i, -, hw⟩ | ⟨k, -, hw⟩ := step_writes hr h
  · exact ⟨cw, ha, hl, hw.frame.resolve_left hne⟩
  · exact absurd (by rw [hc]) hne
  · exact absurd hw.frame hne
  · exact absurd hw.frame hne

/-- Settles O54: READ_REPLY writes the reply registers as it is accepted, the other commands as their last frame byte is
taken, and the reply phase writes its own slot. -/
theorem onlyTheReplyPhaseWritesTheReplyRegisters : Obligations.OnlyTheReplyPhaseWritesTheReplyRegisters := by
  intro s t hr h hne
  have hne : ¬(t.cfe.rxb = s.cfe.rxb ∧ t.cfe.rxv = s.cfe.rxv) := not_and_or.2 hne
  obtain ⟨cw, ha, hl, hw⟩ | ⟨ill, tmo, hc⟩ | ⟨i, hp, hw⟩ | ⟨k, hp, hw⟩ := step_writes hr h
  · exact .inl ⟨cw, ha, hl, hw.reply.resolve_left hne⟩
  · exact absurd ⟨by rw [hc], by rw [hc]⟩ hne
  · obtain ⟨rfl, hready, hop⟩ := hw.reply.resolve_left hne
    exact .inr (.inl ⟨hp, hready, hop⟩)
  · obtain ⟨b, q, hq, hb, hv⟩ := hw.reply.resolve_left hne
    exact .inr (.inr ⟨k, b, q, hp, hq, hb, hv⟩)

/-- Settles O55: a codec command or SINGLE_BYTE_CMD writes the result as it is accepted, and a reply step only as it
finishes SINGLE_BYTE_CMD. -/
theorem onlyCodecAndSingleByteWriteRes : Obligations.OnlyCodecAndSingleByteWriteRes := by
  intro s t hr h hne
  have hne : ¬(t.cfe.res = s.cfe.res ∧ t.cfe.resv = s.cfe.resv) := not_and_or.2 hne
  obtain ⟨cw, ha, hl, hw⟩ | ⟨ill, tmo, hc⟩ | ⟨i, -, hw⟩ | ⟨k, hp, hw⟩ := step_writes hr h
  · exact .inl ⟨cw, ha, hl, hw.result.resolve_left hne⟩
  · exact absurd ⟨by rw [hc], by rw [hc]⟩ hne
  · exact absurd hw.result hne
  · obtain ⟨hop, hidle⟩ := hw.result.resolve_left hne
    exact .inr ⟨hop, hidle, k, hp⟩

/-- Settles O56: only the acceptance of a dispatcher command writes `CUR_OP` and `CUR_LEN`; the later cycles of a command
in flight read them alone. -/
theorem onlyDispatcherCommandsWriteCurOpAndCurLen : Obligations.OnlyDispatcherCommandsWriteCurOpAndCurLen := by
  intro s t hr h hne
  have hne : ¬(t.cfe.curOp = s.cfe.curOp ∧ t.cfe.curLen = s.cfe.curLen) := not_and_or.2 hne
  obtain ⟨cw, ha, hl, hw⟩ | ⟨ill, tmo, hc⟩ | ⟨i, -, hw⟩ | ⟨k, -, hw⟩ := step_writes hr h
  · exact ⟨cw, ha, hl, hw.command.resolve_left hne⟩
  · exact absurd ⟨by rw [hc], by rw [hc]⟩ hne
  · exact absurd hw.command hne
  · exact absurd hw.command hne

end Sys2Proof.Machine
end

section
/-! Every step keeps the invariant of the registers: one lemma a kind of cycle, then the end of the cycle. -/

namespace Sys2Proof.Machine

/-- The legal values of `CUR_LEN` (10_state.md R20), as `Inv.lenLegal` has them. -/
def LegalCurLen (len : BitVec 3) : Prop := len = 0 ∨ len = 1 ∨ len = 2 ∨ len = 5

/-- While BUSY, ILL is 0: an illegal command starts no phase (10_state.md R27). -/
theorem Inv.statusIll_of_busy {s : State} (h : Inv s) (hb : s.cfe.busy = true) : s.cfe.statusIll = false := by
  cases hi : s.cfe.statusIll with
  | false => rfl
  | true => rw [(h.status hi).2] at hb; cases hb

theorem busy_of_idle {c : Cfe} (h : c.phase = .idle) : c.busy = false := by rw [Cfe.busy, h]; rfl

theorem busy_of_tx {c : Cfe} {i : Fin 5} (h : c.phase = .tx i) : c.busy = true := by rw [Cfe.busy, h]; rfl

theorem busy_of_rx {c : Cfe} {k : Fin 5} (h : c.phase = .rx k) : c.busy = true := by rw [Cfe.busy, h]; rfl

/-- While IDLE the invariant asks nothing of `CUR_OP` and the result. -/
theorem inv_of_idle {t : State} (hp : t.cfe.phase = .idle) (hlen : LegalCurLen t.cfe.curLen)
    (hslots : ∃ m ≤ 5, SlotsFilled t.cfe m) (htmr : t.cfe.tmr < Config.params.tTimeout)
    (hstatus : t.cfe.statusIll = true → t.cfe.statusTo = false) (hq : t.rxq.length ≤ Config.params.rxqDepth) :
    Inv t := by
  have hb := busy_of_idle hp
  exact {
    lenLegal := hlen
    sendLen := by simp [hb]
    sbcLen := by simp [hb]
    inFlight := by simp [CommandInFlight, hp]
    slots := hslots
    timer := htmr
    status := fun hi => ⟨hstatus hi, hb⟩
    timeoutEnds := by simp [hb]
    queue := hq }

/-- What the invariant asks of `CUR_OP`, `CUR_LEN` and the result while a command is in flight (10_state.md R20, R25,
R29). -/
structure CommandRegisters (c : Cfe) : Prop where
  lenLegal : LegalCurLen c.curLen
  sendLen : c.curOp = .send → c.curLen = 0
  sbcLen : c.curOp = .sbc → c.curLen = 1 ∧ c.res = 0 ∧ c.resv = false

theorem Inv.commandRegisters {s : State} (h : Inv s) (hb : s.cfe.busy = true) : CommandRegisters s.cfe :=
  ⟨h.lenLegal, h.sendLen hb, h.sbcLen hb⟩

/-- The invariant from its parts while a command is in flight. -/
theorem inv_of_command {t : State} (hc : CommandRegisters t.cfe) (hf : CommandInFlight t.cfe)
    (hslots : ∃ m ≤ 5, SlotsFilled t.cfe m) (htmr : t.cfe.tmr < Config.params.tTimeout)
    (hill : t.cfe.statusIll = false) (hto : t.cfe.statusTo = false) (hq : t.rxq.length ≤ Config.params.rxqDepth) :
    Inv t where
  lenLegal := hc.lenLegal
  sendLen := fun _ => hc.sendLen
  sbcLen := fun _ => hc.sbcLen
  inFlight := hf
  slots := hslots
  timer := htmr
  status := by simp [hill]
  timeoutEnds := fun _ => hto
  queue := hq

/-- The invariant as a reply phase starts (42_dispatcher.md R166, R177). -/
theorem inv_of_replyStart {t : State} (hp : t.cfe.phase = replyStart t.cfe.curLen) (hc : CommandRegisters t.cfe)
    (hop : t.cfe.curOp ≠ .send) (hb : t.cfe.rxb = Slots.fill 0) (hv : t.cfe.rxv = Slots.fill false)
    (htmr : t.cfe.tmr = 0) (hill : t.cfe.statusIll = false) (hto : t.cfe.statusTo = false)
    (hq : t.rxq.length ≤ Config.params.rxqDepth) : Inv t := by
  have h0 : SlotsFilled t.cfe 0 := slotsFilled_zero hb hv
  refine inv_of_command hc ?_ ⟨0, by omega, h0⟩ (htmr ▸ params_lawful.1) hill hto hq
  unfold CommandInFlight
  by_cases hl : t.cfe.curLen = 0
  · rw [hp, hl, replyStart_of_zero]; trivial
  · rw [hp, replyStart_of_ne hl]
    exact ⟨hop, by simpa [Nat.pos_iff_ne_zero, BitVec.toNat_eq] using hl, h0⟩

/-- The end of a cycle touches no register, and keeps the receive queue within its capacity (42_dispatcher.md R161). -/
theorem Inv.endCycle {u : State} (h : Inv u) : Inv (u.endCycle Config.params) :=
  { h with queue := enqueue_length_le _ _ _ _ }

theorem inv_reset : Inv State.reset :=
  inv_of_idle rfl (.inl rfl) ⟨0, by omega, slotsFilled_zero rfl rfl⟩ params_lawful.1 (fun _ => rfl) (Nat.zero_le _)

theorem Inv.resetCfe {s : State} (h : Inv s) : Inv s.resetCfe := { inv_reset with queue := h.queue }

theorem Inv.recordIllegal {s : State} (h : Inv s) (hp : s.cfe.phase = .idle) : Inv s.recordIllegal :=
  inv_of_idle hp h.lenLegal h.slots h.timer (fun _ => rfl) h.queue

/-- A command's cycle of acceptance, which starts in IDLE, keeps the invariant (42_dispatcher.md R164, R171). -/
theorem Inv.exec {i : Instr} {s u : State} (h : Inv s) (hp : s.cfe.phase = .idle) (hx : exec i s = .next u) :
    Inv u := by
  obtain ⟨hto, ⟨hph, -, hlen, htmr, hb, hv, hq⟩ | ⟨hph, hill, htmr, hb, hv, hq, hcmd⟩ |
    ⟨hph, hill, hop, htmr, hb, hv, hq, hlen⟩⟩ := exec_cases hx
  · obtain ⟨m, hm, hf⟩ := h.slots
    exact inv_of_idle (hph.trans hp) (hlen ▸ h.lenLegal) ⟨m, hm, slotsFilled_congr hf hb hv⟩ (htmr ▸ h.timer)
      (fun _ => hto) (hq ▸ h.queue)
  · obtain ⟨m, hm, hf⟩ := h.slots
    have hc : CommandRegisters u.cfe ∧ u.cfe.curOp ≠ .read := by
      obtain ⟨hop, hlen⟩ | ⟨hop, hlen⟩ | ⟨hop, hlen, hres⟩ := hcmd
      · exact ⟨⟨.inl hlen, fun _ => hlen, by simp [hop]⟩, by simp [hop]⟩
      · exact ⟨⟨hlen, by simp [hop], by simp [hop]⟩, by simp [hop]⟩
      · exact ⟨⟨.inr (.inl hlen), by simp [hop], fun _ => ⟨hlen, hres⟩⟩, by simp [hop]⟩
    exact inv_of_command hc.1 (by simpa [CommandInFlight, hph] using hc.2) ⟨m, hm, slotsFilled_congr hf hb hv⟩
      (htmr ▸ h.timer) hill hto (by simp [hq])
  · exact inv_of_replyStart hph ⟨hlen, by simp [hop], by simp [hop]⟩ (by simp [hop]) hb hv htmr hill hto
      (hq ▸ h.queue)

/-- A transmit step keeps the invariant (42_dispatcher.md R165). -/
theorem Inv.txStep {s : State} {i : Fin 5} (h : Inv s) (hp : s.cfe.phase = .tx i) : Inv (s.txStep i) := by
  have hbusy := busy_of_tx hp
  have hc := h.commandRegisters hbusy
  have hill := h.statusIll_of_busy hbusy
  have hto := h.timeoutEnds hbusy
  have hread : s.cfe.curOp ≠ .read := by simpa [CommandInFlight, hp] using h.inFlight
  obtain ⟨-, hx⟩ | ⟨-, j, -, hx⟩ | ⟨-, -, -, hx⟩ | ⟨-, -, hop, hx⟩ := txStep_cases s i <;> rw [hx]
  · exact h
  · exact inv_of_command ⟨hc.lenLegal, hc.sendLen, hc.sbcLen⟩ hread h.slots h.timer hill hto h.queue
  · exact inv_of_idle rfl h.lenLegal h.slots h.timer (fun _ => hto) h.queue
  · exact inv_of_replyStart rfl ⟨hc.lenLegal, hc.sendLen, hc.sbcLen⟩ hop rfl rfl rfl hill hto h.queue

/-- `Finish()` leaves the command in flight behind: what the invariant asks of the other registers is enough
(42_dispatcher.md R169). -/
theorem inv_finish {u : State} (got : Option Byte) (hlen : LegalCurLen u.cfe.curLen)
    (hslots : ∃ m ≤ 5, SlotsFilled u.cfe m) (htmr : u.cfe.tmr < Config.params.tTimeout)
    (hill : u.cfe.statusIll = false) (hq : u.rxq.length ≤ Config.params.rxqDepth) : Inv (u.finish got) := by
  obtain ⟨⟨r, v, hc⟩, hrxq, -⟩ := finish_cfe u got
  obtain ⟨m, hm, hf⟩ := hslots
  apply inv_of_idle
  · rw [hc]
  · rw [hc]; exact hlen
  · rw [hc]; exact ⟨m, hm, slotsFilled_congr hf rfl rfl⟩
  · rw [hc]; exact htmr
  · rw [hc]; simp [hill]
  · rw [hrxq]; exact hq

/-- A reply step that goes on keeps the invariant (42_dispatcher.md R167, R168). -/
theorem Inv.rxStep {s u : State} {k : Fin 5} (h : Inv s) (hp : s.cfe.phase = .rx k)
    (hx : rxStep Config.params k s = .next u) : Inv u := by
  have hbusy := busy_of_rx hp
  have hc := h.commandRegisters hbusy
  have hill := h.statusIll_of_busy hbusy
  have hto := h.timeoutEnds hbusy
  obtain ⟨hop, hk, hf⟩ : s.cfe.curOp ≠ .send ∧ k.val < s.cfe.curLen.toNat ∧ SlotsFilled s.cfe k.val := by
    simpa [CommandInFlight, hp] using h.inFlight
  have htail : s.rxq.tail.length ≤ Config.params.rxqDepth := by
    have hq := h.queue
    rw [List.length_tail]
    omega
  obtain ⟨b, q, -, -, h1⟩ | ⟨b, q, j, -, hlast, hj, h1⟩ | ⟨-, -, -, h1⟩ | ⟨-, -, -, h1⟩ | ⟨-, -, hne, h1⟩ |
    ⟨-, -, h1⟩ := rxStep_cases Config.params k s <;> rw [h1] at hx <;> cases hx
  · exact inv_finish _ h.lenLegal ⟨k.val + 1, by omega, slotsFilled_set hf rfl rfl⟩ params_lawful.1 hill htail
  · have hf' : SlotsFilled ((((s.rxPop).fillSlot k b).setTmr 0).setPhase (.rx j)).cfe j.val :=
      hj ▸ slotsFilled_set hf rfl rfl
    exact inv_of_command ⟨hc.lenLegal, hc.sendLen, hc.sbcLen⟩ ⟨hop, by simp; omega, hf'⟩ ⟨j.val, by omega, hf'⟩
      params_lawful.1 hill hto htail
  · exact inv_finish _ h.lenLegal h.slots h.timer hill h.queue
  · have htmr := h.timer
    have hlt : countTick Config.params s.cfe.tmr < Config.params.tTimeout := by
      rw [countTick_of_lt htmr]
      omega
    exact { h with timer := hlt }
  · exact h

/-- Settles O49: each kind of cycle keeps the invariant, and so does the end of the cycle. -/
theorem everyStepKeepsTheInvariant : Obligations.EveryStepKeepsTheInvariant := by
  intro s t hinv h
  obtain ⟨u, rfl, hu⟩ := step_next_cases h
  apply Inv.endCycle
  obtain ⟨-, rfl⟩ | ⟨cw, ⟨-, hp, -⟩, ⟨i, -, hx⟩ | rfl⟩ | ⟨-, -, rfl⟩ | ⟨i, -, hp, rfl⟩ | ⟨k, -, hp, hx⟩ := hu
  · exact hinv.resetCfe
  · exact hinv.exec hp hx
  · exact hinv.recordIllegal hp
  · exact hinv
  · exact hinv.txStep hp
  · exact hinv.rxStep hp hx

/-- Settles O48: after reset the machine is IDLE with everything cleared. -/
theorem invariantHoldsAtReset : Obligations.InvariantHoldsAtReset := inv_reset

end Sys2Proof.Machine
end

section
/-! Registers that mean nothing in their phase never show: related states as writes of the hidden registers, and one lemma a
kind of cycle that keeps the relation. -/

namespace Sys2Proof.Machine

/-- The state with other values in the registers that mean nothing while IDLE (10_state.md R29, R30). -/
def State.setHidden (op : CurOp) (len : BitVec 3) (n : Nat) (s : State) : State := (s.setCommand op len).setTmr n

section
variable {s t : State} (op : CurOp) (len : BitVec 3) (n : Nat)

/-- While IDLE the related states are those with other `CUR_OP`, `CUR_LEN` and `TMR`. -/
theorem hiddenEq_iff_of_idle (hp : s.cfe.phase = .idle) :
    HiddenEq s t ↔ ∃ op len n, t = s.setHidden op len n := by
  unfold HiddenEq
  rw [hp]
  constructor
  · obtain ⟨c, q, l, sc, cy⟩ := t
    rintro ⟨rfl, rfl, rfl, rfl, hc⟩
    exact ⟨c.curOp, c.curLen, c.tmr, congrArg (State.mk · _ _ _ _) hc.symm⟩
  · rintro ⟨op, len, n, rfl⟩
    exact ⟨rfl, rfl, rfl, rfl, rfl⟩

/-- In a transmit phase the related states are those with another `TMR`. -/
theorem hiddenEq_iff_of_tx {i : Fin 5} (hp : s.cfe.phase = .tx i) : HiddenEq s t ↔ ∃ n, t = s.setTmr n := by
  unfold HiddenEq
  rw [hp]
  constructor
  · obtain ⟨c, q, l, sc, cy⟩ := t
    rintro ⟨rfl, rfl, rfl, rfl, hc⟩
    exact ⟨c.tmr, congrArg (State.mk · _ _ _ _) hc.symm⟩
  · rintro ⟨n, rfl⟩
    exact ⟨rfl, rfl, rfl, rfl, rfl⟩

/-- In a reply phase nothing is hidden. -/
theorem hiddenEq_iff_of_rx {k : Fin 5} (hp : s.cfe.phase = .rx k) : HiddenEq s t ↔ t = s := by
  unfold HiddenEq
  rw [hp]
  constructor
  · obtain ⟨c, q, l, sc, cy⟩ := t
    rintro ⟨rfl, rfl, rfl, rfl, rfl⟩
    rfl
  · rintro rfl
    exact ⟨rfl, rfl, rfl, rfl, rfl⟩

theorem hiddenEq_refl (s : State) : HiddenEq s s := by
  unfold HiddenEq
  cases s.cfe.phase <;> exact ⟨rfl, rfl, rfl, rfl, rfl⟩

theorem hiddenEq_setHidden (hp : s.cfe.phase = .idle) : HiddenEq s (s.setHidden op len n) :=
  (hiddenEq_iff_of_idle hp).2 ⟨op, len, n, rfl⟩

theorem hiddenEq_setTmr {i : Fin 5} (hp : s.cfe.phase = .tx i) : HiddenEq s (s.setTmr n) :=
  (hiddenEq_iff_of_tx hp).2 ⟨n, rfl⟩

/-- Related states have the same inputs, now and later. -/
theorem HiddenEq.inputs_eq (h : HiddenEq s t) : s.inputs = t.inputs := by
  obtain ⟨-, -, hs, hc, -⟩ := h
  simp only [State.inputs, hs, hc]

theorem HiddenEq.endCycle (h : HiddenEq s t) (p : Params) : HiddenEq (s.endCycle p) (t.endCycle p) := by
  have hi := h.inputs_eq
  obtain ⟨hq, hl, hs, hc, hr⟩ := h
  exact ⟨by simp [hq, hc, hi], hl, by simp [hs], by simp [hc], hr⟩

theorem HiddenEq.resetCfe (h : HiddenEq s t) : HiddenEq s.resetCfe t.resetCfe := by
  obtain ⟨hq, hl, hs, hc, -⟩ := h
  exact ⟨hq, hl, hs, hc, rfl⟩

/-! Outputs: no port reads a hidden register (42_dispatcher.md R179, 10_state.md R35) -/

theorem outputs_setHidden : (s.setHidden op len n).outputs = s.outputs := rfl

theorem outputs_setTmr : (s.setTmr n).outputs = s.outputs := rfl

theorem HiddenEq.outputs_eq (h : HiddenEq s t) : s.outputs = t.outputs := by
  cases hp : s.cfe.phase with
  | idle => obtain ⟨op, len, n, rfl⟩ := (hiddenEq_iff_of_idle hp).1 h; exact (outputs_setHidden op len n).symm
  | tx i => obtain ⟨n, rfl⟩ := (hiddenEq_iff_of_tx hp).1 h; exact (outputs_setTmr n).symm
  | rx k => obtain rfl := (hiddenEq_iff_of_rx hp).1 h; rfl

/-! Cycles -/

/-- A command accepted in IDLE either keeps the hidden registers hidden, or overwrites `CUR_OP` and `CUR_LEN` as it goes on
to the transmit phase, or all three as it goes on to a reply phase (42_dispatcher.md R164, R166, R171). -/
theorem exec_setHidden {i : Instr} {u : State} (hp : s.cfe.phase = .idle) (h : exec i s = .next u) :
    ∃ v, exec i (s.setHidden op len n) = .next v ∧ HiddenEq u v := by
  cases i with
  | readReply l =>
    simp only [exec, execReadReply] at h ⊢
    split at h
    case isTrue hl => cases h; exact ⟨_, if_pos hl, hiddenEq_refl _⟩
    case isFalse hl => cases h; exact ⟨_, if_neg hl, hiddenEq_setHidden op len n hp⟩
  | transact l =>
    simp only [exec, execTransact] at h ⊢
    split at h
    case isTrue hl => cases h; exact ⟨_, if_pos hl, hiddenEq_setTmr n rfl⟩
    case isFalse hl => cases h; exact ⟨_, if_neg hl, hiddenEq_setHidden op len n hp⟩
  | sendFrame => cases h; exact ⟨_, rfl, hiddenEq_setTmr n rfl⟩
  | singleByteCmd opc => cases h; exact ⟨_, rfl, hiddenEq_setTmr n rfl⟩
  | _ => cases h; exact ⟨_, rfl, hiddenEq_setHidden op len n hp⟩

/-- A word accepted: related states go on to related states. -/
theorem acceptWord_setHidden {cw : CommandWord} {u : State} (hp : s.cfe.phase = .idle) (h : acceptWord cw s = .next u) :
    ∃ v, acceptWord cw (s.setHidden op len n) = .next v ∧ HiddenEq u v := by
  unfold acceptWord at h ⊢
  cases hd : decode cw with
  | ok i => rw [hd] at h; exact exec_setHidden op len n hp h
  | error e => rw [hd] at h; cases h; exact ⟨_, rfl, hiddenEq_setHidden op len n hp⟩

/-- The end of a transmit phase does not read `TMR`: SEND_FRAME goes to IDLE, where it is hidden, and the other commands
clear it (42_dispatcher.md R165, R166). -/
theorem frameSent_setTmr : HiddenEq s.frameSent (s.setTmr n).frameSent := by
  unfold State.frameSent
  rw [setTmr_cfe]
  dsimp only
  split
  · exact hiddenEq_setHidden s.cfe.curOp s.cfe.curLen n rfl
  all_goals exact hiddenEq_refl _

theorem txStep_setTmr {i : Fin 5} (hp : s.cfe.phase = .tx i) : HiddenEq (s.txStep i) ((s.setTmr n).txStep i) := by
  unfold State.txStep
  rw [setTmr_inputs]
  split
  case isTrue =>
    dsimp only
    split
    · exact hiddenEq_setTmr n rfl
    · exact frameSent_setTmr n
  case isFalse => exact hiddenEq_setTmr n hp

end

/-- Settles O59: no port reads a hidden register, a cycle of reset clears them, and every other cycle keeps them hidden. -/
theorem hiddenRegistersNeverShow : Obligations.HiddenRegistersNeverShow := by
  intro s t hst
  refine ⟨hst.outputs_eq, fun s' h => ?_⟩
  obtain ⟨hr, h1⟩ | ⟨cw, ha, h1⟩ | ⟨hr, hp, hv, h1⟩ | ⟨i, hr, hp, h1⟩ | ⟨k, -, hp, -⟩ := step_cases s
  · cases h1.symm.trans h
    exact ⟨_, step_reset (hst.inputs_eq ▸ hr), hst.resetCfe.endCycle _⟩
  · have ⟨_, hp, _⟩ := ha
    obtain ⟨op, len, n, rfl⟩ := (hiddenEq_iff_of_idle hp).1 hst
    obtain ⟨u, hu, rfl⟩ := onNext_eq_next.1 (h1.symm.trans h)
    obtain ⟨v, hv, huv⟩ := acceptWord_setHidden op len n hp hu
    have ha' : (s.setHidden op len n).Accepts cw := ha
    exact ⟨_, by rw [step_accept ha', hv, onNext_next], huv.endCycle _⟩
  · cases h1.symm.trans h
    obtain ⟨op, len, n, rfl⟩ := (hiddenEq_iff_of_idle hp).1 hst
    exact ⟨_, step_idle (s := s.setHidden op len n) hr hp hv, hst.endCycle _⟩
  · cases h1.symm.trans h
    obtain ⟨n, rfl⟩ := (hiddenEq_iff_of_tx hp).1 hst
    exact ⟨_, step_tx (s := s.setTmr n) hr hp, (txStep_setTmr n hp).endCycle _⟩
  · obtain rfl := (hiddenEq_iff_of_rx hp).1 hst
    exact ⟨s', h, hiddenEq_refl s'⟩

end Sys2Proof.Machine
end

section
/-! The reset values and what the output ports show. -/

namespace Sys2Proof.Machine

/-- In a cycle of reset every control port is 0 (42_dispatcher.md R179, 70_reset_and_hazards.md R240). -/
theorem controlPorts_of_reset {s : State} (h : s.inputs.rst = true) :
    s.cmdReady = false ∧ s.txValid = false ∧ s.rxPopPort = false ∧ s.rxFlushPort = false := by
  simp [State.cmdReady, State.txValid, State.rxPopPort, State.rxFlushPort, h]

/-- Settles O10: a cycle of reset writes `Cfe.reset`, the values of 10_state.md R36, and every control port is 0. -/
theorem resetSetsEveryRegisterAndNothingElse : Obligations.ResetSetsEveryRegisterAndNothingElse :=
  ⟨rfl, rfl, fun _ h => ⟨step_reset h, controlPorts_of_reset h⟩⟩

theorem busy_iff (c : Cfe) : c.busy = true ↔ c.phase ≠ .idle := by
  unfold Cfe.busy
  cases c.phase <;> simp [Phase.busy]

/-- The three bits of `STATUS` (10_state.md R27). -/
theorem status_bits (c : Cfe) : c.status[0] = c.busy ∧ c.status[1] = c.statusIll ∧ c.status[2] = c.statusTo := by
  unfold Cfe.status
  cases c.busy <;> cases c.statusIll <;> cases c.statusTo <;> decide

/-- Byte `j` of the packed bytes, index 0 most significant (10_state.md R31). -/
theorem packBytes_byte (x : Slots Byte) (j : Fin 5) : (packBytes x).extractLsb' (8 * (4 - j.val)) 8 = x.get j := by
  unfold packBytes
  match j with
  | 0 | 1 | 2 | 3 | 4 => ext i hi; simp only [BitVec.getElem_extractLsb', BitVec.getLsbD_append, Slots.get]; grind

/-- Flag `j` of the packed flags, index 0 most significant (10_state.md R31). -/
theorem packFlags_flag (x : Slots Bool) (j : Fin 5) : (packFlags x).getLsbD (4 - j.val) = x.get j := by
  unfold packFlags
  match j with
  | 0 | 1 | 2 | 3 | 4 => simp only [BitVec.getLsbD_append, Slots.get]; simp

/-- In `TX(i)` the byte offered is `TXF[i]` (42_dispatcher.md R179). -/
theorem txData_of_tx {s : State} {i : Fin 5} (hp : s.cfe.phase = .tx i) (hv : s.txValid = true) :
    s.txData = s.cfe.txf.get i := by
  simp [State.txData, hv, hp]

theorem txData_of_not_txValid {s : State} (hv : s.txValid = false) : s.txData = 0 := by
  simp [State.txData, hv]

/-- Settles O57: the ports are the registers, packed as 10_state.md R31 says. -/
theorem outputPortsShowTheRegisters : Obligations.OutputPortsShowTheRegisters := by
  intro s
  obtain ⟨hbusy, hill, hto⟩ := status_bits s.cfe
  exact ⟨busy_iff s.cfe, hbusy, hill, hto, rfl, rfl, rfl, rfl,
    fun j => ⟨packBytes_byte _ j, packBytes_byte _ j, packFlags_flag _ j⟩,
    fun _ hp hv => txData_of_tx hp hv, fun hv => txData_of_not_txValid hv⟩

end Sys2Proof.Machine
end

section
/-! Big-endian wire order: byte 0 of a 32-bit value is its most significant byte (20_memory.md R55). -/

namespace Sys2Proof

/-- The high part of an append weighs `2 ^ n`. -/
theorem toNat_append_eq_mul_add {m n : Nat} (x : BitVec m) (y : BitVec n) :
    (x ++ y).toNat = x.toNat * 2 ^ n + y.toNat := by
  rw [BitVec.toNat_append, ← Nat.shiftLeft_add_eq_or_of_lt y.isLt, Nat.shiftLeft_eq]

/-- The four byte slices are adjacent and cover the word. -/
@[simp] theorem wordOfWire_wireOfWord (v : Word32) : wordOfWire (wireOfWord v) = v := by
  dsimp only [wordOfWire, wireOfWord]
  rw [BitVec.extractLsb'_append_extractLsb'_eq_extractLsb' (rfl : 24 = 16 + 8),
    BitVec.extractLsb'_append_extractLsb'_eq_extractLsb' (rfl : 16 = 8 + 8),
    BitVec.extractLsb'_append_extractLsb'_eq_extractLsb' (rfl : 8 = 0 + 8)]
  exact BitVec.extractLsb'_eq_self

@[simp] theorem wireOfWord_wordOfWire (w : WireWord) : wireOfWord (wordOfWire w) = w :=
  wireOfWord_bytes w.w0 w.w1 w.w2 w.w3

theorem wordOfWire_toNat (w : WireWord) :
    (wordOfWire w).toNat = w.w0.toNat * 2 ^ 24 + w.w1.toNat * 2 ^ 16 + w.w2.toNat * 2 ^ 8 + w.w3.toNat := by
  unfold wordOfWire
  simp only [toNat_append_eq_mul_add]
  omega

/-- Settles O28: the two mappings are inverse to each other, and byte `j` weighs `2 ^ (24 - 8 * j)`. -/
theorem wordAndWireBytesMatchBigEndian : Obligations.WordAndWireBytesMatchBigEndian :=
  ⟨wordOfWire_wireOfWord, wireOfWord_wordOfWire, wordOfWire_toNat⟩

end Sys2Proof
end

section
/-! The encoding: a word is its five fields, so decoder and encoder are read field by field; and the opcode table, each row
read as the fields it requires to be 0. -/

namespace Sys2Proof

open Sys2Proof.Machine
open Sys2Proof.Laws (opCode)

variable {cw : CommandWord} {i : Instr}

/-! Words and operands from their parts -/

/-- A word is determined by its fields, and they by it (30_encoding.md R70). -/
theorem commandWord_eq_iff {op len : BitVec 4} {opc : Byte} {rsv : BitVec 16} {arg : Word32} :
    commandWord op len opc rsv arg = cw ↔
      opField cw = op ∧ lenField cw = len ∧ opcField cw = opc ∧ rsvField cw = rsv ∧ argField cw = arg := by
  constructor
  · rintro rfl
    simp
  · rintro ⟨rfl, rfl, rfl, rfl, rfl⟩
    exact commandWord_fields cw

theorem argAddr_append_argLow (arg : Word32) : argAddr arg ++ argLow arg = arg := by
  unfold argAddr argLow
  rw [BitVec.extractLsb'_append_extractLsb'_eq_extractLsb' (rfl : 16 = 0 + 16)]
  exact BitVec.extractLsb'_eq_self

theorem argAddr_append_wireOfWord (arg : Word32) :
    argAddr arg ++ (wireOfWord arg).w2 ++ (wireOfWord arg).w3 = arg := by
  dsimp only [argAddr, wireOfWord]
  rw [BitVec.extractLsb'_append_extractLsb'_eq_extractLsb' (rfl : 16 = 8 + 8),
    BitVec.extractLsb'_append_extractLsb'_eq_extractLsb' (rfl : 8 = 0 + 8)]
  exact BitVec.extractLsb'_eq_self

/-! The decoder and the legality test -/

theorem legalLen_iff {len : BitVec 4} : legalLen len = true ↔ len ∈ [0#4, 1#4, 2#4, 5#4] := by
  simp [legalLen, or_assoc]

/-- `Legal(cw)` as 30_encoding.md R77 groups the operations: by the fields that they require to be 0. -/
theorem legal_iff : legal cw = true ↔ rsvField cw = 0 ∧
    ((opField cw ∈ [0x0#4, 0x1#4, 0x7#4, 0xD#4] ∧ lenField cw = 0 ∧ opcField cw = 0 ∧ argField cw = 0) ∨
     (opField cw ∈ [0x2#4, 0x3#4, 0x5#4] ∧ lenField cw = 0) ∨
     (opField cw = 0x4#4 ∧ lenField cw = 0 ∧ argLow (argField cw) = 0) ∨
     (opField cw ∈ [0x6#4, 0xA#4] ∧ lenField cw = 0 ∧ argField cw = 0) ∨
     (opField cw ∈ [0x8#4, 0x9#4] ∧ lenField cw ∈ [0#4, 1#4, 2#4, 5#4] ∧ opcField cw = 0 ∧ argField cw = 0) ∨
     (opField cw ∈ [0xB#4, 0xC#4] ∧ lenField cw = 0 ∧ opcField cw = 0)) := by
  unfold legal
  dsimp only
  split <;> simp_all [← BitVec.toNat_inj, legalLen_iff, and_assoc]

theorem exists_decode_iff : (∃ i, decode cw = .ok i) ↔ legal cw = true := by
  refine ⟨fun ⟨i, h⟩ => (legal_and_opField_of_decode h).1, fun h => ?_⟩
  unfold legal at h
  simp only [Bool.and_eq_true, beq_iff_eq] at h
  obtain ⟨hrsv, h⟩ := h
  unfold decode
  split at h <;> simp_all

theorem decode_encode (hi : i.wellFormed = true) : decode (encode i) = .ok i := by
  cases i with
  | readReply len => simpa [encode, decode, Instr.wellFormed] using hi
  | transact len => simpa [encode, decode, Instr.wellFormed] using hi
  | _ => simp [encode, decode]

/-- Each command's operands, put back into their fields, give the word: a field that holds no operand was checked to be
0. -/
theorem encode_of_decode (h : decode cw = .ok i) : encode i = cw ∧ i.wellFormed = true := by
  obtain ⟨hlegal, hop⟩ := legal_and_opField_of_decode h
  obtain ⟨hrsv, -⟩ := legal_iff.1 hlegal
  simp only [decode, hrsv, hop, if_true] at h
  cases i with
  | buildRaw p0 p1 p2 p3 opc =>
    obtain ⟨hlen, rfl, rfl, rfl, rfl, rfl⟩ := by simpa [opCode] using h
    exact ⟨commandWord_eq_iff.2 ⟨hop, hlen, rfl, hrsv, (wordOfWire_wireOfWord _).symm⟩, rfl⟩
  | buildNvmrd addr opc =>
    obtain ⟨hlen, hlow, rfl, rfl⟩ := by simpa [opCode] using h
    have harg : argField cw = argAddr (argField cw) ++ 0#16 := hlow ▸ (argAddr_append_argLow _).symm
    exact ⟨commandWord_eq_iff.2 ⟨hop, hlen, rfl, hrsv, harg⟩, rfl⟩
  | buildNvmwr addr data sib opc =>
    obtain ⟨hlen, rfl, rfl, rfl, rfl⟩ := by simpa [opCode] using h
    exact ⟨commandWord_eq_iff.2 ⟨hop, hlen, rfl, hrsv, (argAddr_append_wireOfWord _).symm⟩, rfl⟩
  | readReply len =>
    obtain ⟨hlen, hopc, harg, rfl⟩ := by simpa [opCode] using h
    exact ⟨commandWord_eq_iff.2 ⟨hop, rfl, hopc, hrsv, harg⟩, hlen⟩
  | transact len =>
    obtain ⟨hlen, hopc, harg, rfl⟩ := by simpa [opCode] using h
    exact ⟨commandWord_eq_iff.2 ⟨hop, rfl, hopc, hrsv, harg⟩, hlen⟩
  | _ => exact ⟨commandWord_eq_iff.2 (by simp_all [opCode]), rfl⟩

/-- Settles O1: every field of `encode i` passes the decoder's check, and the operands are read from where they were put. -/
theorem decodeOfEncodeIsTheCommand : Obligations.DecodeOfEncodeIsTheCommand := fun _ => decode_encode

/-- Settles O2: a decoded word is put together from its command field by field. -/
theorem encodeOfDecodeIsTheWord : Obligations.EncodeOfDecodeIsTheWord := fun _ _ => encode_of_decode

/-- Settles O3: the legality test is the condition of R77 on the named fields, and the decoder accepts the legal words. -/
theorem decoderAcceptsExactlyTheLegalWords : Obligations.DecoderAcceptsExactlyTheLegalWords :=
  fun _ => ⟨legal_iff, exists_decode_iff.trans legal_iff⟩

/-! The opcode table -/

/-- A row that fixes OP, requires RSV to be 0, and requires the bits of LEN, OPC and ARG under the given masks to be 0
(30_encoding.md R90). -/
def fieldRow (op len : BitVec 4) (opc : Byte) (arg : Word32) (lens : Option (List (BitVec 4))) : TableRow :=
  ⟨commandWord op 0 0 0 0, commandWord (.allOnes 4) len opc (.allOnes 16) arg, lens⟩

theorem tableRows_eq_fieldRows : tableRows =
    [ fieldRow 0x0 (.allOnes 4) (.allOnes 8) (.allOnes 32) none,
      fieldRow 0x1 (.allOnes 4) (.allOnes 8) (.allOnes 32) none,
      fieldRow 0x2 (.allOnes 4) 0 0 none,
      fieldRow 0x3 (.allOnes 4) 0 0 none,
      fieldRow 0x4 (.allOnes 4) 0 0xFFFF none,
      fieldRow 0x5 (.allOnes 4) 0 0 none,
      fieldRow 0x6 (.allOnes 4) 0 (.allOnes 32) none,
      fieldRow 0x7 (.allOnes 4) (.allOnes 8) (.allOnes 32) none,
      fieldRow 0x8 0 (.allOnes 8) (.allOnes 32) (some [0, 1, 2, 5]),
      fieldRow 0x9 0 (.allOnes 8) (.allOnes 32) (some [0, 1, 2, 5]),
      fieldRow 0xA (.allOnes 4) 0 (.allOnes 32) none,
      fieldRow 0xB (.allOnes 4) (.allOnes 8) 0 none,
      fieldRow 0xC (.allOnes 4) (.allOnes 8) 0 none,
      fieldRow 0xD (.allOnes 4) (.allOnes 8) (.allOnes 32) none ] := by
  decide

/-- Masking a word masks each field. -/
theorem fields_and (v w : CommandWord) :
    opField (v &&& w) = opField v &&& opField w ∧ lenField (v &&& w) = lenField v &&& lenField w ∧
    opcField (v &&& w) = opcField v &&& opcField w ∧ rsvField (v &&& w) = rsvField v &&& rsvField w ∧
    argField (v &&& w) = argField v &&& argField w :=
  ⟨BitVec.extractLsb'_and, BitVec.extractLsb'_and, BitVec.extractLsb'_and, BitVec.extractLsb'_and,
    BitVec.extractLsb'_and⟩

section
variable {op len : BitVec 4} {opc : Byte} {arg : Word32}

theorem matchesWord_fieldRow_iff {lens : Option (List (BitVec 4))} :
    (fieldRow op len opc arg lens).matchesWord cw = true ↔
      opField cw = op ∧ lenField cw &&& len = 0 ∧ opcField cw &&& opc = 0 ∧ rsvField cw = 0 ∧
        argField cw &&& arg = 0 := by
  unfold TableRow.matchesWord fieldRow
  rw [beq_iff_eq, eq_comm, commandWord_eq_iff]
  simp [fields_and, -BitVec.reduceAllOnes]

theorem listsLen_fieldRow_none : (fieldRow op len opc arg none).listsLen cw = true := rfl

theorem listsLen_fieldRow_some_iff {ls : List (BitVec 4)} :
    (fieldRow op len opc arg (some ls)).listsLen cw = true ↔ lenField cw ∈ ls := List.contains_iff_mem

end

/-- The mask of BUILD_NVMRD's row selects `ARG[15:0]` (30_encoding.md R75). -/
theorem and_lowMask_eq_zero_iff (arg : Word32) : arg &&& 0xFFFF#32 = 0#32 ↔ argLow arg = 0#16 := by
  have hmask : (arg &&& 0xFFFF#32).toNat = (argLow arg).toNat := by
    rw [argLow, BitVec.extractLsb'_toNat, BitVec.toNat_and]
    exact Nat.and_two_pow_sub_one_eq_mod arg.toNat 16
  rw [← BitVec.toNat_inj, hmask, ← BitVec.toNat_inj]
  rfl

/-- Read field by field, the rows are the operations of R77 one at a time; what is left is to group them. -/
theorem exists_row_iff_legal :
    (∃ r ∈ tableRows, r.matchesWord cw = true ∧ r.listsLen cw = true) ↔ legal cw = true := by
  rw [legal_iff, tableRows_eq_fieldRows]
  simp [matchesWord_fieldRow_iff, listsLen_fieldRow_none, listsLen_fieldRow_some_iff, and_lowMask_eq_zero_iff,
    -BitVec.reduceAllOnes]
  grind

theorem opField_mask_of_mem_tableRows : ∀ r ∈ tableRows, opField r.mask = .allOnes 4 := by decide

theorem row_eq_of_opField_eq :
    ∀ q ∈ tableRows, ∀ r ∈ tableRows, opField q.pattern = opField r.pattern → q = r := by decide

theorem nodup_tableRows : tableRows.Nodup := by decide

theorem opField_eq_of_matchesWord {r : TableRow} (hr : r ∈ tableRows) (h : r.matchesWord cw = true) :
    opField cw = opField r.pattern := by
  rw [← beq_iff_eq.1 h, (fields_and _ _).1, opField_mask_of_mem_tableRows r hr, BitVec.and_allOnes]

/-- No word matches two rows: OP tells them apart (30_encoding.md R71, R90). -/
theorem row_eq_of_matchesWord {q r : TableRow} (hq : q ∈ tableRows) (hr : r ∈ tableRows)
    (hqm : q.matchesWord cw = true) (hrm : r.matchesWord cw = true) : q = r :=
  row_eq_of_opField_eq q hq r hr ((opField_eq_of_matchesWord hq hqm).symm.trans (opField_eq_of_matchesWord hr hrm))

theorem filter_matchesWord_eq_singleton_iff {r : TableRow} :
    tableRows.filter (fun q => q.matchesWord cw) = [r] ↔ r ∈ tableRows ∧ r.matchesWord cw = true := by
  constructor
  · intro h
    exact List.mem_filter.1 (h ▸ List.mem_singleton_self r)
  · rintro ⟨hr, hrm⟩
    apply List.perm_singleton.1
    rw [List.perm_ext_iff_of_nodup (nodup_tableRows.filter _) (List.nodup_singleton r)]
    intro q
    rw [List.mem_filter, List.mem_singleton]
    exact ⟨fun ⟨hq, hqm⟩ => row_eq_of_matchesWord hq hr hqm hrm, fun h => h ▸ ⟨hr, hrm⟩⟩

/-- Settles O4: at most one row matches, and the legal words are those that match a row and have a LEN it lists. -/
theorem legalWordMatchesExactlyOneTableRow : Obligations.LegalWordMatchesExactlyOneTableRow := by
  intro cw
  simp only [filter_matchesWord_eq_singleton_iff, and_assoc, exists_row_iff_legal]

/-! Words written out -/

/-- Settles O5: the decoder, run on the six words. -/
theorem wordsOfTheSpecDecode : Obligations.WordsOfTheSpecDecode := by
  unfold Obligations.WordsOfTheSpecDecode
  decide

/-- Settles O6: the expansions are the commands of R89, and the encoder gives each command's word. -/
theorem pseudoInstructionsExpandToTheirWords : Obligations.PseudoInstructionsExpandToTheirWords :=
  ⟨fun _ _ => rfl, fun _ _ _ _ => rfl, fun _ => rfl, fun _ _ _ => rfl, fun _ => rfl⟩

end Sys2Proof
end

section
/-! Illegal words: what accepting one does, and the terms of Instr that stand for one. -/

namespace Sys2Proof.Machine

variable {s : State}

theorem acceptWord_of_not_legal {cw : CommandWord} (h : legal cw = false) :
    acceptWord cw s = .next s.recordIllegal := by
  unfold acceptWord
  cases hd : decode cw with
  | ok i => rw [exists_decode_iff.1 ⟨i, hd⟩] at h; cases h
  | error e => rfl

/-- While IDLE no byte is offered and none is popped (42_dispatcher.md R179). -/
theorem ports_of_idle (hp : s.cfe.phase = .idle) : s.txValid = false ∧ s.rxPopPort = false := by
  simp [State.txValid, State.rxPopPort, hp]

theorem rxFlushPort_of_not_legal (h : legal s.inputs.cmdWord = false) : s.rxFlushPort = false := by
  simp [State.rxFlushPort, h]

/-- Settles O8: the decoder rejects the word, so the cycle records ILL alone; the ports are silent while IDLE, and
`rx_flush` tests for a legal word. -/
theorem illegalWordOnlySetsIll : Obligations.IllegalWordOnlySetsIll := by
  intro s cw ha hl
  have ⟨_, hp, _, hw⟩ := ha
  have ⟨htx, hpop⟩ := ports_of_idle hp
  refine ⟨?_, htx, hpop, rxFlushPort_of_not_legal (hw ▸ hl)⟩
  rw [step_accept ha, acceptWord_of_not_legal hl]
  rfl

/-- Settles O34: both words and both terms rest on the one check of LEN, which fails. -/
theorem otherReplyLengthsAreIllegal : Obligations.OtherReplyLengthsAreIllegal := by
  intro len hlen s
  have hl : ¬legalLen len = true := mt legalLen_iff.1 hlen
  exact ⟨by simp [legal, hl], by simp [legal, hl], if_neg hl, if_neg hl⟩

end Sys2Proof.Machine
end

section
/-! SINGLE_BYTE_CMD against TRANSACT 1: related states as writes of `RES`, `RESV` and `CUR_OP`, and one lemma for each
operation of a command in flight that keeps the relation (30_encoding.md R89). -/

namespace Sys2Proof.Machine

variable {s t u : State}

/-- The state with TRANSACT in flight in place of its command, and another result. -/
def State.asTransact (v : Word32) (b : Bool) (s : State) : State :=
  (s.setCommand .xact s.cfe.curLen).loadRes v b

@[simp] theorem asTransact_cfe (v : Word32) (b : Bool) :
    (s.asTransact v b).cfe = { s.cfe with res := v, resv := b, curOp := .xact } := rfl
@[simp] theorem asTransact_rxq (v : Word32) (b : Bool) : (s.asTransact v b).rxq = s.rxq := rfl
@[simp] theorem asTransact_inputs (v : Word32) (b : Bool) : (s.asTransact v b).inputs = s.inputs := rfl

theorem sameTransaction_iff :
    SameTransaction s t ↔ s.cfe.curOp = .sbc ∧ ∃ v b, t = s.asTransact v b := by
  constructor
  · rintro ⟨hs, ht, h⟩
    exact ⟨hs, t.cfe.res, t.cfe.resv, h.trans (by rw [ht]; rfl)⟩
  · rintro ⟨hs, v, b, rfl⟩
    exact ⟨hs, rfl, rfl⟩

theorem SameTransaction.endCycle (h : SameTransaction s t) (p : Params) :
    SameTransaction (s.endCycle p) (t.endCycle p) := by
  obtain ⟨hs, v, b, rfl⟩ := sameTransaction_iff.1 h
  exact ⟨hs, rfl, rfl⟩

/-- Both go to IDLE; SINGLE_BYTE_CMD writes `RES` and `RESV` besides (42_dispatcher.md R169). -/
theorem SameTransaction.finish (h : SameTransaction s t) (got : Option Byte) :
    SameTransaction (s.finish got) (t.finish got) := by
  obtain ⟨hs, v, b, rfl⟩ := sameTransaction_iff.1 h
  have ht : (s.asTransact v b).finish got = (s.asTransact v b).setPhase .idle := rfl
  obtain ⟨-, hf⟩ | ⟨hne, -⟩ := finish_cases s got
  · rw [ht, hf]
    exact ⟨hs, rfl, rfl⟩
  · exact absurd hs hne

/-- Both start a reply phase, of the same length (42_dispatcher.md R165). -/
theorem SameTransaction.frameSent (h : SameTransaction s t) : SameTransaction s.frameSent t.frameSent := by
  obtain ⟨hs, v, b, rfl⟩ := sameTransaction_iff.1 h
  have hf : s.frameSent = s.replySetup.setPhase (replyStart s.cfe.curLen) := by simp [State.frameSent, hs]
  rw [hf]
  exact ⟨hs, rfl, rfl⟩

theorem SameTransaction.txStep (h : SameTransaction s t) (i : Fin 5) :
    SameTransaction (s.txStep i) (t.txStep i) := by
  obtain ⟨hs, v, b, rfl⟩ := sameTransaction_iff.1 h
  have htaken : SameTransaction (s.txTake (s.cfe.txf.get i)) ((s.asTransact v b).txTake (s.cfe.txf.get i)) :=
    ⟨hs, rfl, rfl⟩
  unfold State.txStep
  rw [asTransact_inputs]
  split
  case isTrue =>
    dsimp only
    split
    · exact ⟨hs, rfl, rfl⟩
    · exact htaken.frameSent
  case isFalse => exact h

theorem SameTransaction.rxTake {k : Fin 5} {b : Byte} (h : SameTransaction s t) (hx : rxTake k b s = .next u) :
    ∃ w, rxTake k b t = .next w ∧ SameTransaction u w := by
  obtain ⟨hs, v, c, rfl⟩ := sameTransaction_iff.1 h
  have hfilled : SameTransaction (((s.rxPop).fillSlot k b).setTmr 0)
      ((((s.asTransact v c).rxPop).fillSlot k b).setTmr 0) := ⟨hs, rfl, rfl⟩
  unfold Machine.rxTake at hx ⊢
  dsimp only at hx ⊢
  split at hx
  case isTrue hlast =>
    cases hx
    exact ⟨_, if_pos hlast, hfilled.finish (some b)⟩
  case isFalse hlast =>
    split at hx <;> cases hx
    case isTrue hk => exact ⟨_, (if_neg hlast).trans (dif_pos hk), ⟨hs, rfl, rfl⟩⟩

theorem SameTransaction.rxWait (h : SameTransaction s t) (p : Params) :
    SameTransaction (s.rxWait p) (t.rxWait p) := by
  obtain ⟨hs, v, b, rfl⟩ := sameTransaction_iff.1 h
  have htimeout : SameTransaction s.recordTimeout (s.asTransact v b).recordTimeout := ⟨hs, rfl, rfl⟩
  unfold State.rxWait
  rw [asTransact_inputs, asTransact_cfe]
  dsimp only
  split
  case isTrue =>
    split
    · exact htimeout.finish none
    · exact ⟨hs, rfl, rfl⟩
  case isFalse => exact h

theorem SameTransaction.rxStep {p : Params} {k : Fin 5} (h : SameTransaction s t) (hx : rxStep p k s = .next u) :
    ∃ w, rxStep p k t = .next w ∧ SameTransaction u w := by
  obtain ⟨-, v, c, rfl⟩ := sameTransaction_iff.1 h
  unfold Machine.rxStep at hx ⊢
  rw [asTransact_rxq]
  cases hq : s.rxq with
  | cons b q =>
    rw [hq] at hx
    exact h.rxTake hx
  | nil =>
    rw [hq] at hx
    cases hx
    exact ⟨_, rfl, h.rxWait p⟩

/-- A cycle of the transaction keeps two related states related (42_dispatcher.md R172, R173). -/
theorem SameTransaction.step (h : SameTransaction s t) (hb : s.cfe.busy = true) (hr : s.inputs.rst = false)
    (hx : step s = .next u) : ∃ w, step t = .next w ∧ SameTransaction u w := by
  obtain ⟨-, v, b, rfl⟩ := sameTransaction_iff.1 h
  have hrt : (s.asTransact v b).inputs.rst = false := hr
  cases hp : s.cfe.phase with
  | idle => rw [busy_of_idle hp] at hb; cases hb
  | tx i =>
    have hpt : (s.asTransact v b).cfe.phase = .tx i := hp
    cases (step_tx hr hp).symm.trans hx
    exact ⟨_, step_tx hrt hpt, (h.txStep i).endCycle _⟩
  | rx k =>
    have hpt : (s.asTransact v b).cfe.phase = .rx k := hp
    obtain ⟨x, hsx, rfl⟩ := onNext_eq_next.1 ((step_rx hr hp).symm.trans hx)
    obtain ⟨y, hty, hxy⟩ := h.rxStep hsx
    exact ⟨_, by rw [step_rx hrt hpt, hty, onNext_next], hxy.endCycle _⟩

/-- Both ways to accept load the toggle frame, flush the queue and enter `TX(0)` with length 1 (42_dispatcher.md R164). -/
theorem sameTransaction_of_accepted {b x y : State} {opc : Byte} (hb : exec (.buildToggle opc) s = .next b)
    (hy : exec (.transact 1) b = .next y) (hx : exec (.singleByteCmd opc) s = .next x) : SameTransaction x y := by
  cases hb
  cases hy
  cases hx
  exact ⟨rfl, rfl, rfl⟩

/-- Settles O47: the accepted commands start related states, and every later cycle of the command keeps them related. -/
theorem toggleIsBuildToggleThenTransact : Obligations.ToggleIsBuildToggleThenTransact :=
  ⟨fun _ _ _ _ _ => sameTransaction_of_accepted, fun _ _ _ => SameTransaction.step⟩

end Sys2Proof.Machine
end

section
/-! The codec: `BcdEncode` writes the decimal digits of its operand in the nibbles, `BcdDecode` reads the number that the
nibbles stand for, and a BCD word is determined by that number (40_bcd_codec.md R101 to R105). -/

namespace Sys2Proof.Machine

@[simp] theorem digit_le (y k : Nat) : digit y k ≤ 9 := Nat.le_of_lt_succ (digit_lt y k)

/-- The nibbles of two packed digits are the digits. -/
@[simp] theorem hiNibble_packDigits_digit (y j k : Nat) : hiNibble (packDigits (digit y j) (digit y k)) = digit y j :=
  hiNibble_packDigits (by have := digit_lt y j; omega) (by have := digit_lt y k; omega)

@[simp] theorem loNibble_packDigits_digit (y j k : Nat) : loNibble (packDigits (digit y j) (digit y k)) = digit y k :=
  loNibble_packDigits (by have := digit_lt y j; omega) (by have := digit_lt y k; omega)

/-- `BcdEncode` answers a BCD word (40_bcd_codec.md R101). -/
theorem isBcd_bcdEncode (x : Word32) : isBcd (bcdEncode x) = true := by
  simp [isBcd_iff, bcdEncode]

/-- The low eight digits, each at its weight, add up to the number modulo `10^8`. -/
theorem sum_digits (y : Nat) :
    (digit y 7 * 10 + digit y 6) * 1000000 + (digit y 5 * 10 + digit y 4) * 10000 +
      (digit y 3 * 10 + digit y 2) * 100 + (digit y 1 * 10 + digit y 0) = y % 100000000 := by
  simp only [digit]
  omega

/-- The word that `BcdEncode` answers stands for the operand, its high digits lost (40_bcd_codec.md R101, R104). -/
theorem bcdValue_bcdEncode (x : Word32) : bcdValue (bcdEncode x) = x.toNat % 100000000 := by
  rw [bcdValue_eq]
  simp only [bcdEncode, hiNibble_packDigits_digit, loNibble_packDigits_digit, sum_digits, Nat.mod_mod]

/-- A byte counts at most 165, reached at 0xFF, in the sum of R102. -/
theorem nibbles_value_le (b : Byte) : hiNibble b * 10 + loNibble b ≤ 165 := by
  have hh := hiNibble_le b
  have hl := loNibble_le b
  omega

theorem bcdValue_le (w : WireWord) : bcdValue w ≤ 166666665 := by
  rw [bcdValue_eq]
  linarith [nibbles_value_le w.w0, nibbles_value_le w.w1, nibbles_value_le w.w2, nibbles_value_le w.w3]

theorem bcdValue_le_of_isBcd {w : WireWord} (h : isBcd w = true) : bcdValue w ≤ 99999999 := by
  rw [isBcd_iff] at h
  rw [bcdValue_eq]
  omega

/-- The nibbles of a BCD word are the decimal digits of its value, so the value determines the word. -/
theorem eq_of_bcdValue_eq {v w : WireWord} (hv : isBcd v = true) (hw : isBcd w = true)
    (h : bcdValue v = bcdValue w) : v = w := by
  rw [isBcd_iff] at hv hw
  rw [bcdValue_eq, bcdValue_eq] at h
  obtain ⟨v0, v1, v2, v3⟩ := v
  obtain ⟨w0, w1, w2, w3⟩ := w
  dsimp only at hv hw h
  congr 1 <;> apply byte_eq_of_nibbles <;> omega

/-- Settles O23: nibble by nibble the packed digits, each below ten. -/
theorem bcdEncodeGivesTheLowEightDigits : Obligations.BcdEncodeGivesTheLowEightDigits := by
  intro x
  simp only [extract_hi, extract_lo, bcdEncode, hiNibble_packDigits_digit, loNibble_packDigits_digit]
  exact ⟨⟨rfl, rfl⟩, ⟨rfl, rfl⟩, ⟨rfl, rfl⟩, ⟨rfl, rfl⟩, isBcd_bcdEncode x⟩

/-- Settles O24: the rounds of `BcdDecode` add up to the weighted sum, and nothing is cut off. -/
theorem bcdDecodeIsTheWeightedSum : Obligations.BcdDecodeIsTheWeightedSum := by
  intro w
  simp only [toNat_bcdDecode, bcdValue_eq, extract_hi, extract_lo]
  omega

/-- Settles O25: the bounds on the nibbles bound the weighted sum; 00 00 00 A0 and 00 00 00 9A both decode to 100. -/
theorem bcdDecodeStaysInRange : Obligations.BcdDecodeStaysInRange := by
  refine ⟨fun w h => ?_, fun w => ⟨bcdValue_le w, toNat_bcdDecode w⟩, by decide,
    ⟨⟨0x00, 0x00, 0x00, 0xA0⟩, ⟨0x00, 0x00, 0x00, 0x9A⟩, by decide⟩, by decide⟩
  rw [toNat_bcdDecode]
  exact bcdValue_le_of_isBcd h

/-- Settles O26: the encoded word stands for `x mod 10^8`, and decoding answers what a word stands for. -/
theorem decodeOfEncodeIsModuloTenToTheEighth : Obligations.DecodeOfEncodeIsModuloTenToTheEighth := by
  intro x
  have hmod : (bcdDecode (bcdEncode x)).toNat = x.toNat % 100000000 := by
    rw [toNat_bcdDecode, bcdValue_bcdEncode]
  exact ⟨hmod, fun hx => BitVec.eq_of_toNat_eq (hmod.trans (Nat.mod_eq_of_lt hx))⟩

/-- Settles O27: what `BcdEncode` answers is BCD; and encoding the value of a BCD word gives a BCD word of the same value,
which is that word. -/
theorem encodeOfDecodeIsIdentityExactlyOnBcd : Obligations.EncodeOfDecodeIsIdentityExactlyOnBcd := by
  intro w
  constructor
  · intro h
    exact h ▸ isBcd_bcdEncode (bcdDecode w)
  · intro h
    have hlt : bcdValue w < 100000000 := Nat.lt_succ_of_le (bcdValue_le_of_isBcd h)
    apply eq_of_bcdValue_eq (isBcd_bcdEncode _) h
    rw [bcdValue_bcdEncode, toNat_bcdDecode, Nat.mod_eq_of_lt hlt]

end Sys2Proof.Machine
end

section
/-! The codec commands: what each leaves in the result register, and nothing else (40_bcd_codec.md R107 to R109). -/

namespace Sys2Proof.Machine

/-- A codec command writes `RES` and `RESV`, clears ILL and TO, and leaves every other register, the transport and the
inputs as they were. -/
theorem deliver_eq (v : Word32) (valid : Bool) (s : State) :
    deliver v valid s =
      .next { s with cfe := { s.cfe with res := v, resv := valid, statusIll := false, statusTo := false } } := rfl

/-- Settles O29: the word is the encoding of ENC_FREQ, whose result is the wire word in big-endian order. -/
theorem encFreqLeavesTheWireWord : Obligations.EncFreqLeavesTheWireWord :=
  ⟨fun f => decode_encode (i := .encFreq f) rfl, fun f s => ⟨bcdEncode f, rfl, deliver_eq _ _ s⟩, by decide⟩

/-- Settles O30: the word is the encoding of DEC_FREQ, whose result is the value of the operand's four bytes. -/
theorem decFreqLeavesTheValue : Obligations.DecFreqLeavesTheValue :=
  ⟨fun w => decode_encode (i := .decFreq w) rfl, fun w s => deliver_eq (bcdDecode (wireOfWord w)) true s, by decide⟩

/-- Settles O31: the result is the value of the first four reply slots, valid when all four hold a byte. -/
theorem parseFreqReplyDecodesTheFirstFourSlots : Obligations.ParseFreqReplyDecodesTheFirstFourSlots :=
  ⟨decode_encode (i := .parseFreqReply) rfl, fun s => deliver_eq (bcdDecode (replyWire s.cfe.rxb)) _ s⟩

end Sys2Proof.Machine
end

section
/-! The wire at whole frames: one lemma a kind of cycle that is no reset (41_frame_build.md R140). -/

namespace Sys2Proof.Machine

variable {s t u : State}

/-! The sent part of the current frame, by phase -/

theorem sentPrefix_of_idle {c : Cfe} (hp : c.phase = .idle) : sentPrefix c = [] := by rw [sentPrefix, hp]

theorem sentPrefix_of_tx {c : Cfe} {i : Fin 5} (hp : c.phase = .tx i) : sentPrefix c = c.txf.toList.take i.val := by
  rw [sentPrefix, hp]

theorem sentPrefix_of_rx {c : Cfe} {k : Fin 5} (hp : c.phase = .rx k) : sentPrefix c = [] := by rw [sentPrefix, hp]

/-- A reply phase, even one of length 0, has no frame in transmission (42_dispatcher.md R177). -/
theorem sentPrefix_of_replyStart {c : Cfe} {len : BitVec 3} (hp : c.phase = replyStart len) : sentPrefix c = [] := by
  unfold replyStart at hp
  split at hp
  · exact sentPrefix_of_idle hp
  · exact sentPrefix_of_rx hp

/-! Each kind of cycle -/

/-- Only the log and the sent part of the current frame count. -/
theorem WholeFrames.congr (h : WholeFrames s) (hlog : t.txlog = s.txlog) (hsent : sentPrefix t.cfe = sentPrefix s.cfe) :
    WholeFrames t := by
  unfold WholeFrames
  rw [hlog, hsent]
  exact h

/-- No command sends a byte as it is accepted: it leaves the machine IDLE, at the start of a frame, or before a reply. -/
theorem WholeFrames.exec {i : Instr} (h : WholeFrames s) (hp : s.cfe.phase = .idle) (hx : exec i s = .next u) :
    WholeFrames u := by
  have hsent : sentPrefix u.cfe = [] := by
    obtain ⟨-, ⟨hpu, -⟩ | ⟨hpu, -⟩ | ⟨hpu, -⟩⟩ := exec_cases hx
    · exact sentPrefix_of_idle (hpu.trans hp)
    · exact sentPrefix_of_tx hpu
    · exact sentPrefix_of_replyStart hpu
  exact h.congr (exec_keeps hx).1 (hsent.trans (sentPrefix_of_idle hp).symm)

/-- When the transport takes byte `i` of the frame, the log holds whole frames and then the first `i + 1` bytes. -/
theorem WholeFrames.txTake {i : Fin 5} (h : WholeFrames s) (hp : s.cfe.phase = .tx i) :
    ∃ frames : List (Slots Byte), (s.txTake (s.cfe.txf.get i)).txlog =
      (frames.map Slots.toList).flatten ++ s.cfe.txf.toList.take (i.val + 1) := by
  obtain ⟨frames, hlog⟩ := h
  exact ⟨frames, by rw [txTake_txlog, hlog, sentPrefix_of_tx hp, take_succ_toList, List.append_assoc]⟩

/-- With its fifth byte the current frame is one more whole frame, and the machine sends no other. -/
theorem wholeFrames_of_frame_taken {frames : List (Slots Byte)} {x : Slots Byte}
    (hlog : t.txlog = (frames.map Slots.toList).flatten ++ x.toList) (hsent : sentPrefix t.cfe = []) : WholeFrames t :=
  ⟨frames ++ [x], by simp [hlog, hsent]⟩

theorem WholeFrames.txStep {i : Fin 5} (h : WholeFrames s) (hp : s.cfe.phase = .tx i) : WholeFrames (s.txStep i) := by
  obtain ⟨frames, hlog⟩ := h.txTake hp
  obtain ⟨-, hs⟩ | ⟨-, j, hj, hs⟩ | ⟨-, rfl, -, hs⟩ | ⟨-, rfl, -, hs⟩ := txStep_cases s i <;> rw [hs]
  · exact h
  · exact ⟨frames, by rw [setPhase_txlog, hlog, sentPrefix_of_tx rfl, hj]; rfl⟩
  · exact wholeFrames_of_frame_taken hlog (sentPrefix_of_idle rfl)
  · exact wholeFrames_of_frame_taken hlog (sentPrefix_of_replyStart rfl)

/-- A reply step sends nothing: it stays in the reply phase or ends the command. -/
theorem WholeFrames.rxStep {p : Params} {k : Fin 5} (h : WholeFrames s) (hp : s.cfe.phase = .rx k)
    (hx : rxStep p k s = .next u) : WholeFrames u := by
  have hquiet : u.txlog = s.txlog ∧ sentPrefix u.cfe = [] := by
    obtain ⟨b, q, -, -, h1⟩ | ⟨b, q, j, -, -, -, h1⟩ | ⟨-, -, -, h1⟩ | ⟨-, -, -, h1⟩ | ⟨-, -, -, h1⟩ | ⟨-, -, h1⟩ :=
      rxStep_cases p k s <;> rw [h1] at hx <;> cases hx
    · obtain ⟨⟨r, v, hc⟩, -, hl⟩ := finish_cfe (((s.rxPop).fillSlot k b).setTmr 0) (some b)
      exact ⟨hl, sentPrefix_of_idle (by rw [hc])⟩
    · exact ⟨rfl, sentPrefix_of_rx rfl⟩
    · obtain ⟨⟨r, v, hc⟩, -, hl⟩ := finish_cfe s.recordTimeout none
      exact ⟨hl, sentPrefix_of_idle (by rw [hc])⟩
    · exact ⟨rfl, sentPrefix_of_rx hp⟩
    · exact ⟨rfl, sentPrefix_of_rx hp⟩
  exact h.congr hquiet.1 (hquiet.2.trans (sentPrefix_of_rx hp).symm)

/-- Settles O52: each kind of cycle that is no reset keeps the wire at whole frames, and the end of the cycle touches
neither the log nor the registers. -/
theorem everyStepKeepsWholeFrames : Obligations.EveryStepKeepsWholeFrames := by
  intro s t hr hw h
  obtain ⟨u, rfl, hu⟩ := step_next_cases h
  suffices hwu : WholeFrames u from hwu.congr rfl rfl
  obtain ⟨hrst, -⟩ | ⟨cw, ⟨-, hp, -⟩, ⟨i, -, hx⟩ | rfl⟩ | ⟨-, -, rfl⟩ | ⟨i, -, hp, rfl⟩ | ⟨k, -, hp, hx⟩ := hu
  · rw [hr] at hrst; cases hrst
  · exact hw.exec hp hx
  · exact hw.congr rfl rfl
  · exact hw
  · exact hw.txStep hp
  · exact hw.rxStep hp hx

/-- Settles O51: after reset nothing has been taken and no frame is in transmission. -/
theorem wireHoldsWholeFramesAtReset : Obligations.WireHoldsWholeFramesAtReset := ⟨[], rfl⟩

end Sys2Proof.Machine
end

section
/-! The frame-building commands: the frame each one writes, the words that stand for it, and the words with its operation
code that are illegal (41_frame_build.md R130 to R139). -/

namespace Sys2Proof.Machine

open Sys2Proof.Laws (opCode)

variable {cw : CommandWord}

/-- A frame-building command writes `TXF`, clears ILL and TO, and leaves every other register, the transport and the inputs
as they were. -/
theorem buildFrame_eq (f : Slots Byte) (s : State) :
    buildFrame f s = .next { s with cfe := { s.cfe with txf := f, statusIll := false, statusTo := false } } := rfl

/-- The commands with OP 0 to 6 write a frame at most; NOP writes back the one that is there. -/
theorem exec_of_opCode_le_six {i : Instr} (hop : (opCode i).toNat ≤ 6) (s : State) :
    ∃ f, exec i s = .next { s with cfe := { s.cfe with txf := f, statusIll := false, statusTo := false } } := by
  cases i with
  | nop => exact ⟨s.cfe.txf, rfl⟩
  | frameClear | buildRaw | buildFreq | buildNvmrd | buildNvmwr | buildToggle => exact ⟨_, buildFrame_eq _ s⟩
  | sendFrame | readReply | transact | singleByteCmd | encFreq | decFreq | parseFreqReply =>
    exact absurd hop (by simp [opCode])

theorem rxFlushPort_of_not_sendsFrame {s : State} (h : sendsFrame s.inputs.cmdWord = false) : s.rxFlushPort = false := by
  simp [State.rxFlushPort, h]

theorem sendsFrame_of_opField_le_six (hop : (opField cw).toNat ≤ 6) : sendsFrame cw = false := by
  have hne : ∀ op : BitVec 4, 6 < op.toNat → (opField cw == op) = false := by
    intro op h
    rw [beq_eq_false_iff_ne]
    rintro rfl
    omega
  rw [sendsFrame, hne 0x7 (by decide), hne 0x9 (by decide), hne 0xA (by decide)]
  rfl

/-- Settles O22: the word decodes to a command with the same OP, which writes a frame at most; while IDLE only an accepted
command that sends a frame drives a line of the transport. -/
theorem frameBuildersTouchOnlyTheFrame : Obligations.FrameBuildersTouchOnlyTheFrame := by
  intro s cw ⟨_, hp, _, hw⟩ hl hop
  obtain ⟨i, hd⟩ := exists_decode_iff.2 hl
  obtain ⟨f, hx⟩ := exec_of_opCode_le_six ((legal_and_opField_of_decode hd).2 ▸ hop) s
  obtain ⟨htx, hpop⟩ := ports_of_idle hp
  exact ⟨i, f, hd, hx, htx, hpop, rxFlushPort_of_not_sendsFrame (hw ▸ sendsFrame_of_opField_le_six hop)⟩

/-- Settles O18: the word is the encoding of BUILD_FREQ, and the four payload bytes are the codec's wire word. -/
theorem buildFreqWritesTheBcdFrame : Obligations.BuildFreqWritesTheBcdFrame :=
  ⟨fun f opc => decode_encode (i := .buildFreq f opc) rfl, fun f opc s =>
    ⟨bcdEncode f, rfl, buildFrame_eq (frameOf (bcdEncode f) opc) s, isBcd_bcdEncode f,
      (decodeOfEncodeIsModuloTenToTheEighth f).1⟩⟩

/-- Settles O15: of the words with OP 0 only the one with every other field 0 is legal, and that is the zero word. -/
theorem nopClearsTheConditionsAlone : Obligations.NopClearsTheConditionsAlone := by
  refine ⟨decode_encode (i := .nop) rfl, fun s => rfl, fun cw hop hne => ?_⟩
  rw [Bool.eq_false_iff]
  intro hl
  obtain ⟨hlen, hopc, harg⟩ : lenField cw = 0 ∧ opcField cw = 0 ∧ argField cw = 0 := by
    simpa [hop] using (legal_iff.1 hl).2
  exact hne (commandWord_eq_iff.2 ⟨hop, hlen, hopc, (legal_iff.1 hl).1, harg⟩).symm

/-- Settles O16: the word is the encoding of FRAME_CLEAR, whose frame is five zeros. -/
theorem frameClearZeroesTheFrame : Obligations.FrameClearZeroesTheFrame :=
  ⟨decode_encode (i := .frameClear) rfl, buildFrame_eq (Slots.fill 0)⟩

/-- Every word with OP 2 whose LEN and RSV are 0 is the encoding of BUILD_RAW of ARG's bytes in wire order. -/
theorem decode_buildRaw_word (arg : Word32) (opc : Byte) :
    decode (commandWord 0x2 0 opc 0 arg) =
      .ok (.buildRaw (wireOfWord arg).w0 (wireOfWord arg).w1 (wireOfWord arg).w2 (wireOfWord arg).w3 opc) := by
  simp [decode]

/-- Settles O17: the payload is ARG's bytes in wire order, and the frame is the payload and the opcode. -/
theorem buildRawWritesItsFiveBytes : Obligations.BuildRawWritesItsFiveBytes :=
  ⟨decode_buildRaw_word, fun p0 p1 p2 p3 opc s => buildFrame_eq ⟨p0, p1, p2, p3, opc⟩ s⟩

/-- `ARG[15:0]` is the low 16 bits of the word (30_encoding.md R70, R75). -/
theorem argLow_argField (cw : CommandWord) : argLow (argField cw) = cw.extractLsb' 0 16 :=
  BitVec.extractLsb'_extractLsb'_of_le (by decide)

/-- Settles O19: the frame is the address, most significant byte first, two zeros and the opcode; a legal word with OP 4
has `ARG[15:0]` 0. -/
theorem buildNvmrdWritesTheReadFrame : Obligations.BuildNvmrdWritesTheReadFrame := by
  refine ⟨fun addr opc => decode_encode (i := .buildNvmrd addr opc) rfl, fun cw hop hlow => ?_,
    fun addr opc s => buildFrame_eq ⟨addrMsb addr, addrLsb addr, 0, 0, opc⟩ s⟩
  rw [Bool.eq_false_iff]
  intro hl
  obtain ⟨-, harg⟩ : lenField cw = 0 ∧ argLow (argField cw) = 0 := by simpa [hop] using (legal_iff.1 hl).2
  exact hlow ((argLow_argField cw).symm.trans harg)

/-- A slice of a slice that does not reach past it is a slice of the whole. -/
theorem extractLsb'_extractLsb'_add {w start len start' len' : Nat} (x : BitVec w) (h : start + len ≤ len') :
    (x.extractLsb' start' len').extractLsb' start len = x.extractLsb' (start' + start) len := by
  ext j hj
  have hlt : start + j < len' := by omega
  simp [BitVec.getElem_extractLsb', hlt, Nat.add_assoc]

/-- The bytes of the NVM address are the first two bytes of ARG in wire order (20_memory.md R55, 30_encoding.md R75). -/
theorem addrMsb_argAddr (arg : Word32) : addrMsb (argAddr arg) = (wireOfWord arg).w0 :=
  extractLsb'_extractLsb'_add arg (by decide)

theorem addrLsb_argAddr (arg : Word32) : addrLsb (argAddr arg) = (wireOfWord arg).w1 :=
  extractLsb'_extractLsb'_add arg (by decide)

theorem decode_buildNvmwr_word (arg : Word32) (opc : Byte) :
    decode (commandWord 0x5 0 opc 0 arg) =
      .ok (.buildNvmwr (argAddr arg) (wireOfWord arg).w2 (wireOfWord arg).w3 opc) := by
  simp [decode]

/-- BUILD_NVMWR of ARG builds the frame that BUILD_RAW of ARG builds (41_frame_build.md R138). -/
theorem exec_buildNvmwr_argAddr (arg : Word32) (opc : Byte) (s : State) :
    exec (.buildNvmwr (argAddr arg) (wireOfWord arg).w2 (wireOfWord arg).w3 opc) s =
      exec (.buildRaw (wireOfWord arg).w0 (wireOfWord arg).w1 (wireOfWord arg).w2 (wireOfWord arg).w3 opc) s := by
  rw [← addrMsb_argAddr, ← addrLsb_argAddr]
  rfl

/-- Settles O20: the frame is the address, most significant byte first, the data, the sibling byte and the opcode; as
bytes of ARG these are the ones BUILD_RAW takes. -/
theorem buildNvmwrWritesTheWriteFrame : Obligations.BuildNvmwrWritesTheWriteFrame := by
  refine ⟨fun addr data sib opc => decode_encode (i := .buildNvmwr addr data sib opc) rfl,
    fun addr data sib opc s => buildFrame_eq ⟨addrMsb addr, addrLsb addr, data, sib, opc⟩ s,
    fun arg opc s i j hi hj => ?_⟩
  cases (decode_buildNvmwr_word arg opc).symm.trans hi
  cases (decode_buildRaw_word arg opc).symm.trans hj
  exact exec_buildNvmwr_argAddr arg opc s

/-- Settles O21: the frame is four zeros and the opcode, so with opcode 0 five zeros; a legal word with OP 6 has ARG 0. -/
theorem buildToggleWritesTheToggleFrame : Obligations.BuildToggleWritesTheToggleFrame := by
  refine ⟨fun opc => decode_encode (i := .buildToggle opc) rfl, fun cw hop harg => ?_,
    fun opc s => buildFrame_eq (toggleFrame opc) s, fun s => rfl⟩
  rw [Bool.eq_false_iff]
  intro hl
  obtain ⟨-, h0⟩ : lenField cw = 0 ∧ argField cw = 0 := by simpa [hop] using (legal_iff.1 hl).2
  exact harg h0

end Sys2Proof.Machine
end

section
/-! The cycles of the dispatcher (42_dispatcher.md R163 to R169): the acceptance cycles, and one equation of the step for
each thing that a cycle of a command in flight does. -/

namespace Sys2Proof.Machine

variable {s t u : State}

/-! Acceptance -/

/-- Settles O7: accepting a word that decodes performs its command. -/
theorem stepRunsTheDecodedCommand : Obligations.StepRunsTheDecodedCommand := by
  intro s cw i ha hd
  rw [step_accept ha, acceptWord, hd]

/-- Settles O12: no rule of the cycle applies. -/
theorem idleCycleWithoutCommandChangesNothing : Obligations.IdleCycleWithoutCommandChangesNothing :=
  fun _ hr hp hv => step_idle hr hp hv

/-- The step that accepts the word of a well-formed command. -/
theorem step_accept_encode {i : Instr} (hw : i.wellFormed = true) (ha : s.Accepts (encode i)) (hx : exec i s = .next u) :
    step s = .next (u.endCycle Config.params) := by
  rw [stepRunsTheDecodedCommand s (encode i) i ha (decode_encode hw), hx, onNext_next]

theorem exec_transact {len : BitVec 4} (hl : legalLen len = true) (s : State) :
    exec (.transact len) s = .next (s.acceptSend .xact (curLenOf len)) := if_pos hl

theorem exec_readReply {len : BitVec 4} (hl : legalLen len = true) (s : State) :
    exec (.readReply len) s =
      .next (((s.clearConditions.setCommand .read (curLenOf len)).replySetup).setPhase (replyStart (curLenOf len))) :=
  if_pos hl

/-- A legal LEN is cut to 3 bits without loss (10_state.md R29). -/
theorem toNat_curLenOf {len : BitVec 4} (hl : legalLen len = true) : (curLenOf len).toNat = len.toNat := by
  revert len
  decide

theorem curLenOf_eq_zero_iff {len : BitVec 4} (hl : legalLen len = true) : curLenOf len = 0 ↔ len = 0 := by
  rw [← BitVec.toNat_inj, ← BitVec.toNat_inj, toNat_curLenOf hl]
  rfl

theorem sendsFrame_iff {cw : CommandWord} : sendsFrame cw = true ↔ opField cw ∈ [0x7#4, 0x9#4, 0xA#4] := by
  simp [sendsFrame, or_assoc]

theorem rxFlushPort_of_accepts {cw : CommandWord} (ha : s.Accepts cw) :
    s.rxFlushPort = (legal cw && sendsFrame cw) := by
  obtain ⟨hr, hp, hv, rfl⟩ := ha
  simp [State.rxFlushPort, hr, busy_of_idle hp, hv]

/-- Settles O32: the words are the encodings of the three commands, and `rx_flush` tests for just these. -/
theorem acceptSendStartsTheFrame : Obligations.AcceptSendStartsTheFrame := by
  refine ⟨⟨decode_encode (i := .sendFrame) rfl, fun s => rfl⟩, fun len hlen => ?_,
    fun opc => ⟨decode_encode (i := .singleByteCmd opc) rfl, fun s => rfl⟩, fun s cw ha hl hop => ?_⟩
  · have hl : legalLen len = true := legalLen_iff.2 hlen
    exact ⟨decode_encode (i := .transact len) hl, exec_transact hl⟩
  · rw [rxFlushPort_of_accepts ha, hl, sendsFrame_iff.2 hop]
    exact ⟨rfl, (ports_of_idle ha.2.1).1⟩

/-- Settles O33: the word is the encoding of READ_REPLY, and its OP is not among those that `rx_flush` tests for. -/
theorem acceptReadStartsTheReplyPhase : Obligations.AcceptReadStartsTheReplyPhase := by
  refine ⟨fun len hlen => ?_, fun s cw ha hop => ?_⟩
  · have hl : legalLen len = true := legalLen_iff.2 hlen
    refine ⟨decode_encode (i := .readReply len) hl, fun s => ?_⟩
    have hstart : replyStart (curLenOf len) = if len = 0 then .idle else .rx 0 := by
      simp only [replyStart, curLenOf_eq_zero_iff hl]
    rw [exec_readReply hl, hstart]
    rfl
  · have ⟨_, hp, _, hw⟩ := ha
    exact ⟨rxFlushPort_of_not_sendsFrame (by rw [hw, sendsFrame, hop]; rfl), (ports_of_idle hp).2⟩

/-! The transmit phase -/

section
variable {i : Fin 5} (hr : s.inputs.rst = false) (hp : s.cfe.phase = .tx i)
include hr hp

theorem step_tx_held (hready : s.inputs.txReady = false) : step s = .next (s.endCycle Config.params) := by
  rw [step_tx hr hp, State.txStep, hready]
  rfl

theorem step_tx_next {j : Fin 5} (hready : s.inputs.txReady = true) (hj : j.val = i.val + 1) :
    step s = .next (((s.txTake (s.cfe.txf.get i)).setPhase (.tx j)).endCycle Config.params) := by
  have hi : i.val < 4 := by omega
  have hj : ⟨i.val + 1, by omega⟩ = j := Fin.ext hj.symm
  rw [step_tx hr hp, State.txStep, hready]
  simp [hi, hj]

theorem step_tx_last (hready : s.inputs.txReady = true) (hi : i = 4) :
    step s = .next ((s.txTake (s.cfe.txf.get i)).frameSent.endCycle Config.params) := by
  subst hi
  rw [step_tx hr hp, State.txStep, hready]
  rfl

theorem txValid_of_tx : s.txValid = true := by simp [State.txValid, hr, hp]

end

theorem frameSent_of_send (hop : s.cfe.curOp = .send) : s.frameSent = s.setPhase .idle := by
  rw [State.frameSent, hop]

theorem frameSent_of_ne_send (hop : s.cfe.curOp ≠ .send) :
    s.frameSent = s.replySetup.setPhase (replyStart s.cfe.curLen) := by
  unfold State.frameSent
  split
  case h_1 hsend => exact absurd hsend hop
  all_goals rfl

/-- Settles O35: the equations of the transmit phase. -/
theorem txStepOffersOneByte : Obligations.TxStepOffersOneByte := by
  intro s i hr hp
  have hv := txValid_of_tx hr hp
  refine ⟨hv, txData_of_tx hp hv, step_tx_held hr hp, fun hready =>
    ⟨fun j hj => step_tx_next hr hp hready hj, fun hi hop => ?_, fun hi hop => ?_⟩⟩
  · rw [step_tx_last hr hp hready hi, frameSent_of_send (s := s.txTake _) hop]
    rfl
  · rw [step_tx_last hr hp hready hi, frameSent_of_ne_send (s := s.txTake _) hop]
    rfl

/-! The reply phase -/

/-- `Finish()` as one update: SINGLE_BYTE_CMD writes the result, 0 and not valid after a timeout (42_dispatcher.md
R169). -/
theorem finish_eq (s : State) (got : Option Byte) :
    s.finish got = (s.setPhase .idle).loadRes (if s.cfe.curOp = .sbc then got.elim 0 zext32 else s.cfe.res)
      (if s.cfe.curOp = .sbc then got.isSome else s.cfe.resv) := by
  obtain ⟨hop, h⟩ | ⟨hop, h⟩ := finish_cases s got
  · rw [h, if_pos hop, if_pos hop]
    cases got <;> rfl
  · rw [h, if_neg hop, if_neg hop]
    rfl

/-- The state after byte `b` has left the receive queue for slot `k`, which restarts the timer (42_dispatcher.md R167). -/
def State.takeByte (k : Fin 5) (b : Byte) (s : State) : State := ((s.rxPop).fillSlot k b).setTmr 0

@[simp] theorem takeByte_cfe (s : State) (k : Fin 5) (b : Byte) :
    (s.takeByte k b).cfe = { s.cfe with rxb := s.cfe.rxb.set k b, rxv := s.cfe.rxv.set k true, tmr := 0 } := rfl

section
variable {k : Fin 5} (hr : s.inputs.rst = false) (hp : s.cfe.phase = .rx k)
include hr hp

theorem rxPopPort_of_rx : s.rxPopPort = !s.rxq.isEmpty := by simp [State.rxPopPort, State.rxAvail, hr, hp]

theorem step_rx_next {b : Byte} {q : List Byte} {j : Fin 5} (hq : s.rxq = b :: q) (hj : j.val = k.val + 1)
    (hne : k.val + 1 ≠ s.cfe.curLen.toNat) :
    step s = .next (((s.takeByte k b).setPhase (.rx j)).endCycle Config.params) := by
  have hk : k.val + 1 < 5 := by omega
  have hj : ⟨k.val + 1, hk⟩ = j := Fin.ext hj.symm
  rw [step_rx hr hp, rxStep, hq]
  simp [rxTake, hne, hk, hj, State.takeByte]

theorem step_rx_last {b : Byte} {q : List Byte} (hq : s.rxq = b :: q) (he : k.val + 1 = s.cfe.curLen.toNat) :
    step s = .next (((s.takeByte k b).finish (some b)).endCycle Config.params) := by
  rw [step_rx hr hp, rxStep, hq]
  simp [rxTake, he, State.takeByte]

theorem step_rx_wait (hq : s.rxq = []) : step s = .next ((s.rxWait Config.params).endCycle Config.params) := by
  rw [step_rx hr hp, rxStep, hq]
  rfl

theorem step_rx_quiet (hq : s.rxq = []) (ht : s.inputs.tick = false) : step s = .next (s.endCycle Config.params) := by
  rw [step_rx_wait hr hp hq, State.rxWait, ht]
  rfl

theorem step_rx_tick (hq : s.rxq = []) (ht : s.inputs.tick = true) (hlt : s.cfe.tmr + 1 < Config.params.tTimeout) :
    step s = .next ((s.setTmr (s.cfe.tmr + 1)).endCycle Config.params) := by
  have hne : s.cfe.tmr + 1 ≠ Config.params.tTimeout := by omega
  rw [step_rx_wait hr hp hq, State.rxWait, ht, if_pos rfl, if_neg hne, countTick_of_lt (by omega)]

theorem step_rx_timeout (hq : s.rxq = []) (ht : s.inputs.tick = true) (he : s.cfe.tmr + 1 = Config.params.tTimeout) :
    step s = .next ((s.recordTimeout.finish none).endCycle Config.params) := by
  rw [step_rx_wait hr hp hq, State.rxWait, ht, if_pos rfl, if_pos he]

end

/-- Settles O36: the equations of the reply phase with a byte available. -/
theorem rxStepTakesAnAvailableByte : Obligations.RxStepTakesAnAvailableByte := by
  intro s k b q hr hp hq
  have htail : s.rxq.tail = q := by rw [hq]; rfl
  refine ⟨by rw [rxPopPort_of_rx hr hp, hq]; rfl, fun j hj hne => ?_, fun he => ?_⟩
  · rw [step_rx_next hr hp hq hj hne, ← htail]
    rfl
  · rw [step_rx_last hr hp hq he, finish_eq, ← htail]
    rfl

/-- Settles O37: the equations of the reply phase with no byte available. -/
theorem rxStepCountsTicksToTheCeiling : Obligations.RxStepCountsTicksToTheCeiling := by
  intro s k hr hp hq hlt
  refine ⟨by rw [rxPopPort_of_rx hr hp, hq]; rfl, step_rx_quiet hr hp hq,
    fun ht hne => step_rx_tick hr hp hq ht (by omega), fun ht he => ?_⟩
  rw [step_rx_timeout hr hp hq ht he, finish_eq]
  rfl

/-- A reply step leaves the reply phase only by `Finish()`, with the head of the receive queue as its byte, if there is one
(42_dispatcher.md R167, R168). -/
theorem rxStep_finishes {p : Params} {k : Fin 5} (hp : s.cfe.phase = .rx k) (hx : rxStep p k s = .next u)
    (hleave : ∀ j, u.cfe.phase ≠ .rx j) :
    ∃ v : State, u = v.finish s.rxq.head? ∧ v.cfe.curOp = s.cfe.curOp ∧ v.cfe.res = s.cfe.res ∧
      v.cfe.resv = s.cfe.resv := by
  obtain ⟨b, q, hq, -, h1⟩ | ⟨b, q, j, -, -, -, h1⟩ | ⟨-, -, -, h1⟩ | ⟨hq, -, -, h1⟩ | ⟨-, -, -, h1⟩ | ⟨-, -, h1⟩ :=
    rxStep_cases p k s <;> rw [h1] at hx <;> cases hx
  · exact ⟨s.takeByte k b, hq ▸ rfl, rfl, rfl, rfl⟩
  · exact absurd rfl (hleave j)
  · exact ⟨s.recordTimeout, hq ▸ rfl, rfl, rfl, rfl⟩
  · exact absurd hp (hleave k)
  · exact absurd hp (hleave k)

/-- Settles O38: the step ends in `Finish()`, whose byte is the head of the receive queue. -/
theorem finishDeliversTheSingleByte : Obligations.FinishDeliversTheSingleByte := by
  intro s t k hr hp h hleave
  obtain ⟨u, hx, rfl⟩ := onNext_eq_next.1 ((step_rx hr hp).symm.trans h)
  obtain ⟨v, rfl, hop, hres, hresv⟩ := rxStep_finishes hp hx hleave
  rw [finish_eq, hop, hres, hresv]
  refine ⟨rfl, fun he b q hq => ?_, fun he hq => ?_, fun hne => ⟨if_neg hne, if_neg hne⟩⟩
  · rw [hq]
    exact ⟨if_pos he, if_pos he⟩
  · rw [hq]
    exact ⟨if_pos he, if_pos he⟩

end Sys2Proof.Machine
end

section
/-! The control ports, and the transport that follows them (42_dispatcher.md R161, R179). -/

namespace Sys2Proof.Machine

open Sys2Proof.Laws (opCode)

variable {s t u : State}

/-! When each control port is 1 -/

theorem cmdReady_iff : s.cmdReady = true ↔ s.inputs.rst = false ∧ s.cfe.phase = .idle := by
  unfold State.cmdReady Cfe.busy
  cases s.cfe.phase <;> simp [Phase.busy]

theorem txValid_iff : s.txValid = true ↔ s.inputs.rst = false ∧ ∃ i, s.cfe.phase = .tx i := by
  unfold State.txValid
  cases s.cfe.phase <;> simp

theorem rxPopPort_iff :
    s.rxPopPort = true ↔ s.inputs.rst = false ∧ (∃ k, s.cfe.phase = .rx k) ∧ s.rxq ≠ [] := by
  unfold State.rxPopPort State.rxAvail
  cases s.cfe.phase <;> simp

theorem rxFlushPort_iff :
    s.rxFlushPort = true ↔ s.cmdReady = true ∧ s.inputs.cmdValid = true ∧ legal s.inputs.cmdWord = true ∧
      opField s.inputs.cmdWord ∈ [0x7#4, 0x9#4, 0xA#4] := by
  rw [← sendsFrame_iff]
  simp [State.rxFlushPort, State.cmdReady, and_assoc]

theorem rxPopPort_of_tx {i : Fin 5} (hp : s.cfe.phase = .tx i) : s.rxPopPort = false := by
  simp [State.rxPopPort, hp]

/-- Settles O58: each port names its phase, and `PHASE` is one of the three. -/
theorem controlPortsFollowThePhase : Obligations.ControlPortsFollowThePhase := by
  intro s
  have hready : s.cmdReady = true → s.txValid = false ∧ s.rxPopPort = false := fun h =>
    ports_of_idle (cmdReady_iff.1 h).2
  have hflush : s.rxFlushPort = true → s.cmdReady = true := fun h => (rxFlushPort_iff.1 h).1
  have htx : s.txValid = true → s.rxPopPort = false := fun h =>
    have ⟨_, _, hp⟩ := txValid_iff.1 h
    rxPopPort_of_tx hp
  refine ⟨cmdReady_iff, fun hv => cmdReady_iff.trans ?_, txValid_iff, rxPopPort_iff, rxFlushPort_iff, ?_⟩
  · simp [State.Accepts, hv]
  · simp only [State.outputs]
    grind

/-! What each kind of cycle does to the transport -/

/-- What the commands do to the receive queue as they are accepted: a frame-sending command flushes it (42_dispatcher.md
R164). -/
theorem exec_rxq {i : Instr} (hw : i.wellFormed = true) (hx : exec i s = .next u) :
    u.rxq = if opCode i ∈ [0x7#4, 0x9#4, 0xA#4] then [] else s.rxq := by
  cases i with
  | readReply len => cases (exec_readReply hw s).symm.trans hx; rfl
  | transact len => cases (exec_transact hw s).symm.trans hx; rfl
  | _ => cases hx; rfl

theorem inputs_congr (hs : u.script = s.script) (hc : u.cycle = s.cycle) : u.inputs = s.inputs := by
  rw [State.inputs, State.inputs, hs, hc]

/-- A reply step sends nothing and pops the receive queue, if there is a byte in it (42_dispatcher.md R167, R168). -/
theorem rxStep_transport {p : Params} {k : Fin 5} (hx : rxStep p k s = .next u) :
    u.txlog = s.txlog ∧ u.rxq = s.rxq.tail ∧ u.script = s.script ∧ u.cycle = s.cycle := by
  obtain ⟨b, q, -, -, h1⟩ | ⟨b, q, j, -, -, -, h1⟩ | ⟨-, -, -, h1⟩ | ⟨hq, -, -, h1⟩ | ⟨hq, -, -, h1⟩ | ⟨hq, -, h1⟩ :=
    rxStep_cases p k s <;> rw [h1] at hx <;> cases hx
  · rw [finish_eq]; exact ⟨rfl, rfl, rfl, rfl⟩
  · exact ⟨rfl, rfl, rfl, rfl⟩
  · rw [finish_eq, hq]; exact ⟨rfl, hq, rfl, rfl⟩
  · exact ⟨rfl, by rw [setTmr_rxq, hq]; rfl, rfl, rfl⟩
  · exact ⟨rfl, by rw [hq]; rfl, rfl, rfl⟩

/-- What a cycle does to the transport before the bytes of the cycle arrive, by the output ports (42_dispatcher.md
R161). -/
structure FollowsPorts (s u : State) : Prop where
  txlog : u.txlog = if s.txValid && s.inputs.txReady then s.txlog ++ [s.txData] else s.txlog
  rxq : u.rxq = if s.rxFlushPort then [] else if s.rxPopPort then s.rxq.tail else s.rxq
  inputs : u.inputs = s.inputs

/-- With the ports silent the transport is left alone. -/
theorem followsPorts_of_silent (htx : s.txValid = false) (hpop : s.rxPopPort = false) (hflush : s.rxFlushPort = false)
    (hlog : u.txlog = s.txlog) (hq : u.rxq = s.rxq) (hin : u.inputs = s.inputs) : FollowsPorts s u :=
  ⟨by simp [htx, hlog], by simp [hpop, hflush, hq], hin⟩

theorem followsPorts_exec {cw : CommandWord} {i : Instr} (ha : s.Accepts cw) (hd : decode cw = .ok i)
    (hx : exec i s = .next u) : FollowsPorts s u := by
  obtain ⟨htx, hpop⟩ := ports_of_idle ha.2.1
  obtain ⟨hl, hop⟩ := legal_and_opField_of_decode hd
  have hflush : s.rxFlushPort = true ↔ opCode i ∈ [0x7#4, 0x9#4, 0xA#4] := by
    rw [rxFlushPort_of_accepts ha, hl, ← hop, ← sendsFrame_iff, Bool.true_and]
  obtain ⟨hlog, hs, hc⟩ := exec_keeps hx
  refine ⟨by simp [htx, hlog], ?_, inputs_congr hs hc⟩
  rw [exec_rxq (encode_of_decode hd).2 hx]
  simp [hflush, hpop]

theorem rxFlushPort_of_busy (hb : s.cfe.busy = true) : s.rxFlushPort = false := by simp [State.rxFlushPort, hb]

theorem followsPorts_txStep {i : Fin 5} (hr : s.inputs.rst = false) (hp : s.cfe.phase = .tx i) :
    FollowsPorts s (s.txStep i) := by
  have hv := txValid_of_tx hr hp
  have hd := txData_of_tx hp hv
  have hflush := rxFlushPort_of_busy (busy_of_tx hp)
  have hpop := rxPopPort_of_tx hp
  obtain ⟨hready, h⟩ | ⟨hready, j, -, h⟩ | ⟨hready, -, -, h⟩ | ⟨hready, -, -, h⟩ := txStep_cases s i <;> rw [h] <;>
    constructor <;> simp [hv, hd, hready, hflush, hpop]

theorem followsPorts_rxStep {p : Params} {k : Fin 5} (hr : s.inputs.rst = false) (hp : s.cfe.phase = .rx k)
    (hx : rxStep p k s = .next u) : FollowsPorts s u := by
  obtain ⟨hlog, hq, hs, hc⟩ := rxStep_transport hx
  have htx : s.txValid = false := by simp [State.txValid, hp]
  refine ⟨by simp [htx, hlog], ?_, inputs_congr hs hc⟩
  rw [rxFlushPort_of_busy (busy_of_rx hp), rxPopPort_of_rx hr hp, hq]
  cases s.rxq <;> rfl

/-- Before it ends, each kind of cycle does to the transport what the ports say (42_dispatcher.md R161, R163). -/
theorem step_followsPorts (h : step s = .next t) : ∃ u, t = u.endCycle Config.params ∧ FollowsPorts s u := by
  obtain ⟨hr, h1⟩ | ⟨cw, ha, h1⟩ | ⟨-, hp, hv, h1⟩ | ⟨i, hr, hp, h1⟩ | ⟨k, hr, hp, h1⟩ := step_cases s <;> rw [h1] at h
  · cases h
    obtain ⟨-, htx, hpop, hflush⟩ := controlPorts_of_reset hr
    exact ⟨_, rfl, followsPorts_of_silent htx hpop hflush rfl rfl rfl⟩
  · obtain ⟨u, hx, rfl⟩ := onNext_eq_next.1 h
    refine ⟨u, rfl, ?_⟩
    cases hl : legal cw with
    | true =>
      obtain ⟨i, hd⟩ := exists_decode_iff.2 hl
      rw [acceptWord, hd] at hx
      exact followsPorts_exec ha hd hx
    | false =>
      cases (acceptWord_of_not_legal hl).symm.trans hx
      obtain ⟨-, hp, -, rfl⟩ := ha
      obtain ⟨htx, hpop⟩ := ports_of_idle hp
      exact followsPorts_of_silent htx hpop (rxFlushPort_of_not_legal hl) rfl rfl rfl
  · cases h
    obtain ⟨htx, hpop⟩ := ports_of_idle hp
    exact ⟨s, rfl, followsPorts_of_silent htx hpop (by simp [State.rxFlushPort, hv]) rfl rfl rfl⟩
  · cases h
    exact ⟨_, rfl, followsPorts_txStep hr hp⟩
  · obtain ⟨u, hx, rfl⟩ := onNext_eq_next.1 h
    exact ⟨u, rfl, followsPorts_rxStep hr hp hx⟩

/-- Settles O13: before the cycle ends the ports are followed; within the queue's capacity the bytes of the cycle are then
queued behind. -/
theorem transportFollowsThePorts : Obligations.TransportFollowsThePorts := by
  intro s t hfits h
  obtain ⟨u, rfl, hf⟩ := step_followsPorts h
  refine ⟨hf.txlog, ?_⟩
  rw [endCycle_rxq, hf.rxq, hf.inputs]
  exact enqueue_of_fits hfits

end Sys2Proof.Machine
end

section
/-! The command port while BUSY (42_dispatcher.md R160): what a cycle of a command in flight does is the same for every
script whose first line gives the same other inputs. -/

namespace Sys2Proof.Machine

variable {s : State} {sc : List Inputs}

theorem txStep_script (s : State) (i : Fin 5) : (s.txStep i).script = s.script := by
  obtain ⟨-, h⟩ | ⟨-, j, -, h⟩ | ⟨-, -, -, h⟩ | ⟨-, -, -, h⟩ := txStep_cases s i <;> rw [h] <;> rfl

/-- The state with another script. -/
def State.withScript (sc : List Inputs) (s : State) : State := { s with script := sc }

@[simp] theorem withScript_cfe : (s.withScript sc).cfe = s.cfe := rfl
@[simp] theorem withScript_rxq : (s.withScript sc).rxq = s.rxq := rfl

theorem finish_withScript (s : State) (got : Option Byte) :
    (s.withScript sc).finish got = (s.finish got).withScript sc := by
  rw [finish_eq, finish_eq]
  rfl

theorem frameSent_withScript (s : State) : (s.withScript sc).frameSent = s.frameSent.withScript sc := by
  unfold State.frameSent
  rw [withScript_cfe]
  cases s.cfe.curOp <;> rfl

theorem txStep_withScript (i : Fin 5) (h : (s.withScript sc).inputs.txReady = s.inputs.txReady) :
    (s.withScript sc).txStep i = (s.txStep i).withScript sc := by
  unfold State.txStep
  rw [h]
  split
  case isTrue =>
    dsimp only
    split
    · rfl
    · exact frameSent_withScript (s.txTake (s.cfe.txf.get i))
  case isFalse => rfl

theorem rxTake_withScript (k : Fin 5) (b : Byte) :
    rxTake k b (s.withScript sc) = onNext (rxTake k b s) (State.withScript sc) := by
  unfold rxTake
  rw [withScript_cfe]
  dsimp only
  split
  · exact congrArg _ (finish_withScript (s.takeByte k b) _)
  · split <;> rfl

theorem rxStep_withScript (p : Params) (k : Fin 5) (h : (s.withScript sc).inputs.tick = s.inputs.tick) :
    rxStep p k (s.withScript sc) = onNext (rxStep p k s) (State.withScript sc) := by
  unfold rxStep
  rw [withScript_rxq]
  cases s.rxq with
  | cons b q => exact rxTake_withScript k b
  | nil =>
    unfold State.rxWait
    rw [h, withScript_cfe]
    dsimp only
    split
    · split
      · exact congrArg _ (finish_withScript s.recordTimeout _)
      · rfl
    · rfl

/-- Two scripts that give the cycle the same arrivals and agree after it end the cycle alike. -/
theorem endCycle_withScript {i j : Inputs} {rest : List Inputs} (p : Params) (hs : s.script = i :: rest)
    (h : j.arrivals = i.arrivals) : (s.withScript (j :: rest)).endCycle p = s.endCycle p := by
  simp only [State.endCycle, State.inputs, State.withScript, hs, h]
  rfl

/-- While BUSY a step reads no other input of the cycle than the reset, the tick, the readiness and the arrivals
(42_dispatcher.md R163). -/
theorem step_withScript_of_busy {i j : Inputs} {rest : List Inputs} (hb : s.cfe.busy = true) (hs : s.script = i :: rest)
    (hrst : j.rst = i.rst) (htick : j.tick = i.tick) (hready : j.txReady = i.txReady) (harr : j.arrivals = i.arrivals) :
    step (s.withScript (j :: rest)) = step s := by
  have hin : s.inputs = i := by rw [State.inputs, hs]
  have hend : ∀ u : State, u.script = s.script →
      (u.withScript (j :: rest)).endCycle Config.params = u.endCycle Config.params :=
    fun u hu => endCycle_withScript _ (hu.trans hs) harr
  have hr' : (s.withScript (j :: rest)).inputs.rst = s.inputs.rst := by rw [hin]; exact hrst
  by_cases hr : s.inputs.rst = true
  · rw [step_reset hr, step_reset (hr'.trans hr), ← hend s.resetCfe rfl]
    rfl
  have hr : s.inputs.rst = false := by simpa using hr
  cases hp : s.cfe.phase with
  | idle => rw [busy_of_idle hp] at hb; cases hb
  | tx n =>
    rw [step_tx hr hp, step_tx (hr'.trans hr) hp, txStep_withScript n (by rw [hin]; exact hready),
      hend _ (txStep_script s n)]
  | rx k =>
    rw [step_rx hr hp, step_rx (hr'.trans hr) hp, rxStep_withScript _ k (by rw [hin]; exact htick)]
    cases hx : rxStep Config.params k s with
    | next u =>
      obtain ⟨-, -, hu, -⟩ := rxStep_transport hx
      simp only [onNext_next, hend u hu]
    | fault r => rfl
    | refused r => rfl

/-- Settles O14: the command port is not among the inputs that a step reads while BUSY. -/
theorem commandPortHasNoEffectWhileBusy : Obligations.CommandPortHasNoEffectWhileBusy :=
  fun _ i _ valid cw hs hb =>
    (step_withScript_of_busy (j := { i with cmdValid := valid, cmdWord := cw }) hb hs rfl rfl rfl rfl).symm

end Sys2Proof.Machine
end

section
/-! Runs of the transmit phase and of a whole frame (42_dispatcher.md R165, R170, R178), put together from the equations of
the step. -/

namespace Sys2Proof.Machine

variable {s t u : State}

/-! Runs and their inputs -/

theorem run_add {m : Nat} (h : run m s = .next t) (n : Nat) : run (m + n) s = run n t := by
  induction m generalizing s with
  | zero => cases h; rw [Nat.zero_add]
  | succ m ih =>
    obtain ⟨u, hs, hu⟩ := run_succ_inv h
    rw [Nat.succ_add, run_succ hs, ih hu]

/-- The last step of a run. -/
theorem run_step {n : Nat} (h : run n s = .next t) (hs : step t = .next u) : run (n + 1) s = .next u :=
  (run_add h 1).trans (run_succ hs 0)

theorem inputsAt_run {m : Nat} (h : run m s = .next t) (n : Nat) : t.inputsAt n = s.inputsAt (m + n) := by
  induction m generalizing s with
  | zero => cases h; rw [Nat.zero_add]
  | succ m ih =>
    obtain ⟨u, hs, hu⟩ := run_succ_inv h
    rw [ih hu, inputsAt_step hs, Nat.succ_add]

theorem noReset_run {m n : Nat} (h : run m s = .next t) (hr : s.NoReset (m + n)) : t.NoReset n :=
  fun j hj => inputsAt_run h j ▸ hr (m + j) (by omega)

theorem rst_of_noReset {n : Nat} (hr : s.NoReset (n + 1)) : s.inputs.rst = false :=
  inputsAt_zero s ▸ hr 0 n.succ_pos

theorem arrivals_of_noArrival {n : Nat} (ha : s.NoArrival (n + 1)) : s.inputs.arrivals = [] :=
  inputsAt_zero s ▸ ha 0 n.succ_pos

theorem noReset_mono {m n : Nat} (hr : s.NoReset n) (h : m ≤ n) : s.NoReset m := fun j hj => hr j (by omega)

theorem countInputs_zero (f : Inputs → Bool) (s : State) (a : Nat) : s.countInputs f a 0 = 0 := rfl

/-- An input that holds in every cycle is counted in every cycle. -/
theorem countInputs_of_forall {f : Inputs → Bool} {n : Nat} (h : ∀ j < n, f (s.inputsAt j) = true) :
    s.countInputs f 0 n = n := by
  unfold State.countInputs
  rw [List.countP_eq_length.2, List.length_range]
  intro j hj
  rw [Nat.zero_add]
  exact h j (List.mem_range.1 hj)

theorem countInputs_add (f : Inputs → Bool) (s : State) (m n : Nat) :
    s.countInputs f 0 (m + n) = s.countInputs f 0 m + s.countInputs f m n := by
  unfold State.countInputs
  rw [List.range_add, List.countP_append, List.countP_map]
  simp [Function.comp_def]

/-! The transmit phase -/

/-- The frame bytes from `i` on: byte `i`, then those from the next on. -/
theorem drop_toList {α : Type} (x : Slots α) {i j : Fin 5} (hj : j.val = i.val + 1) :
    x.toList.drop i.val = x.get i :: x.toList.drop j.val := by
  rw [List.drop_eq_getElem_cons (by simp), Slots.getElem_toList, hj]

/-- An empty queue stays empty over a cycle in which nothing arrives. -/
theorem endCycle_rxq_of_nil (hq : s.rxq = []) (ha : s.inputs.arrivals = []) :
    (s.endCycle Config.params).rxq = [] := by
  rw [endCycle_rxq, hq, ha]
  exact enqueue_of_fits (Nat.zero_le _)

/-- `n` cycles of the transmit phase, `r` of them ready, send `r` bytes, as long as these are not all that are left
(42_dispatcher.md R165, R178). -/
theorem run_tx {i : Fin 5} {n r : Nat} (hp : s.cfe.phase = .tx i) (hr : s.NoReset n)
    (hc : s.countInputs (·.txReady) 0 n = r) (hlt : i.val + r < 5) :
    ∃ (t : State) (j : Fin 5), run n s = .next t ∧ j.val = i.val + r ∧ t.cfe = { s.cfe with phase := .tx j } ∧
      t.txlog = s.txlog ++ (s.cfe.txf.toList.drop i.val).take r ∧ (s.rxq = [] → s.NoArrival n → t.rxq = []) := by
  induction n generalizing s i r with
  | zero =>
    subst hc
    exact ⟨s, i, rfl, rfl, by rw [← hp], by simp [countInputs_zero], fun hq _ => hq⟩
  | succ n ih =>
    have hrst := rst_of_noReset hr
    cases hready : s.inputs.txReady with
    | false =>
      have hs := step_tx_held hrst hp hready
      rw [countInputs_step hs, hready] at hc
      obtain ⟨t, j, ht, hj, hcfe, hlog, hq⟩ :=
        ih (s := s.endCycle Config.params) hp (noReset_step hs hr).2 (by simpa using hc) hlt
      exact ⟨t, j, (run_succ hs n).trans ht, hj, hcfe, hlog, fun h0 ha =>
        hq (endCycle_rxq_of_nil h0 (arrivals_of_noArrival ha)) (noArrival_step hs ha).2⟩
    | true =>
      have hpos : 0 < r := by
        rw [← hc, countInputs_step (step_tx hrst hp), hready, if_pos rfl]
        omega
      obtain ⟨r, rfl⟩ := Nat.exists_eq_succ_of_ne_zero hpos.ne'
      have hj1 : (⟨i.val + 1, by omega⟩ : Fin 5).val = i.val + 1 := rfl
      have hs := step_tx_next hrst hp hready hj1
      rw [countInputs_step hs, hready] at hc
      obtain ⟨t, j, ht, hj, hcfe, hlog, hq⟩ :=
        ih (r := r) rfl (noReset_step hs hr).2 (by simpa [Nat.add_comm 1] using hc) (by dsimp only; omega)
      refine ⟨t, j, (run_succ hs n).trans ht, by dsimp only at hj; omega, hcfe, ?_, fun h0 ha =>
        hq (endCycle_rxq_of_nil h0 (arrivals_of_noArrival ha)) (noArrival_step hs ha).2⟩
      rw [hlog, drop_toList s.cfe.txf hj1]
      simp

/-- Settles O39, by induction on the cycles (`run_tx`): each ready one takes the next byte, the others change nothing. -/
theorem transmitSendsOneByteEachReadyCycle : Obligations.TransmitSendsOneByteEachReadyCycle := by
  intro s i n hp hr r hlt
  obtain ⟨t, j, ht, hj, hc, hlog, -⟩ := run_tx hp hr rfl hlt
  exact ⟨t, j, ht, hj, hc, hlog⟩

/-- The cycle that takes the last frame byte touches the dispatcher's registers alone besides the log (42_dispatcher.md
R165). -/
theorem frameSent_transport (s : State) :
    s.frameSent.rxq = s.rxq ∧ s.frameSent.txlog = s.txlog ∧ s.frameSent.inputs = s.inputs := by
  unfold State.frameSent
  cases s.cfe.curOp <;> exact ⟨rfl, rfl, rfl⟩

/-- What the last frame byte starts does not depend on `PHASE`. -/
theorem frameSent_cfe_of_phase {p : Phase} (h : t.cfe = { s.cfe with phase := p }) :
    t.frameSent.cfe = s.frameSent.cfe := by
  have hop : t.cfe.curOp = s.cfe.curOp := by rw [h]
  unfold State.frameSent
  rw [hop]
  cases s.cfe.curOp <;> simp [h]

/-- The transmit phase of five ready cycles sends the whole frame, whatever comes after it; bytes that arrive with the
last frame byte are then queued (42_dispatcher.md R165, 70_reset_and_hazards.md R251). -/
theorem run_frame (hp : s.cfe.phase = .tx 0) (hr : s.NoReset 5) (hready : ∀ j < 5, (s.inputsAt j).txReady = true) :
    ∃ t : State, run 5 s = .next t ∧ t.cfe = s.frameSent.cfe ∧ t.txlog = s.txlog ++ s.cfe.txf.toList ∧
      (s.rxq = [] → s.NoArrival 4 → (s.inputsAt 4).arrivals.length ≤ 5 → t.rxq = (s.inputsAt 4).arrivals) := by
  have hcount : s.countInputs (·.txReady) 0 4 = 4 := countInputs_of_forall fun j hj => hready j (by omega)
  obtain ⟨v, j, hv, hj, hcfe, hlog, hq⟩ := run_tx hp (noReset_mono hr (by omega)) hcount (by decide)
  obtain rfl : j = 4 := Fin.ext hj
  have hin : v.inputs = s.inputsAt 4 := by rw [← inputsAt_zero, inputsAt_run hv]
  have hs := step_tx_last (i := 4) (hin ▸ hr 4 (by omega)) (by rw [hcfe]) (hin ▸ hready 4 (by omega)) rfl
  obtain ⟨hsq, hslog, hsin⟩ := frameSent_transport (v.txTake (v.cfe.txf.get 4))
  refine ⟨_, run_step hv hs, frameSent_cfe_of_phase hcfe, ?_, fun h0 ha hlen => ?_⟩
  · rw [endCycle_txlog, hslog, txTake_txlog, hlog, hcfe, List.append_assoc]
    rfl
  · rw [endCycle_rxq, hsq, hsin, txTake_rxq, txTake_inputs, hq h0 ha, hin]
    exact enqueue_of_fits (hlen.trans params_lawful.2.2)

/-- The accept cycle of a frame-sending command and the five ready cycles of its frame (42_dispatcher.md R164, R165). -/
theorem run_accepted_frame {i : Instr} (hw : i.wellFormed = true) (ha : s.Accepts (encode i)) (hx : exec i s = .next u)
    (hpu : u.cfe.phase = .tx 0) (hqu : u.rxq = []) (hr : s.NoReset 6)
    (hready : ∀ j < 5, (s.inputsAt (j + 1)).txReady = true) :
    ∃ t : State, run 6 s = .next t ∧ t.cfe = u.frameSent.cfe ∧ t.txlog = s.txlog ++ u.cfe.txf.toList ∧
      (s.NoArrival 5 → (s.inputsAt 5).arrivals.length ≤ 5 → t.rxq = (s.inputsAt 5).arrivals) := by
  have hs := step_accept_encode hw ha hx
  obtain ⟨hlog, hscript, hcycle⟩ := exec_keeps hx
  obtain ⟨t, ht, hc, htlog, hq⟩ := run_frame (s := u.endCycle Config.params) hpu (noReset_step hs hr).2
    fun j hj => inputsAt_step hs j ▸ hready j hj
  rw [inputsAt_step hs] at hq
  refine ⟨t, (run_succ hs 5).trans ht, ?_, by rw [htlog, endCycle_txlog, hlog, endCycle_cfe], fun hn => ?_⟩
  · exact hc.trans (frameSent_cfe_of_phase rfl)
  · obtain ⟨ha0, ha1⟩ := noArrival_step hs hn
    exact hq (endCycle_rxq_of_nil hqu (inputs_congr hscript hcycle ▸ ha0)) ha1

/-- Settles O40: the accept cycle, then the five cycles of the frame, after which SEND_FRAME is complete. -/
theorem sendFrameSendsTheFrameInSixCycles : Obligations.SendFrameSendsTheFrameInSixCycles := by
  intro s ha hr hready
  obtain ⟨t, ht, hc, hlog, -⟩ := run_accepted_frame (i := .sendFrame) rfl ha rfl rfl rfl hr hready
  exact ⟨t, ht, hlog, hc⟩

end Sys2Proof.Machine
end

section
/-! The reply phase: which bytes have left the queue, and which slots hold them (42_dispatcher.md R167, R174). -/

namespace Sys2Proof

/-- Bytes in the leading places, and the same value `z` in the rest: writing place `l.length` moves on by one. -/
theorem set_length_padded {α : Type} {l : List α} {n : Nat} (h : l.length < n) (v z : α) :
    (l ++ List.replicate (n - l.length) z).set l.length v =
      (l ++ [v]) ++ List.replicate (n - (l ++ [v]).length) z := by
  obtain ⟨m, hm⟩ : ∃ m, n - l.length = m + 1 := ⟨n - l.length - 1, by omega⟩
  have hm' : n - (l ++ [v]).length = m := by rw [List.length_append, List.length_singleton]; omega
  rw [hm, hm', List.set_append_right _ _ (Nat.le_refl _), Nat.sub_self, List.replicate_succ, List.set_cons_zero,
    List.append_assoc]
  rfl

theorem Slots.toList_set {α : Type} (x : Slots α) (k : Fin 5) (v : α) : (x.set k v).toList = x.toList.set k.val v := by
  match k with
  | 0 | 1 | 2 | 3 | 4 => rfl

theorem Slots.eq_fill {α : Type} {x : Slots α} {v : α} (h : ∀ j, x.get j = v) : x = Slots.fill v := by
  obtain ⟨b0, b1, b2, b3, b4⟩ := x
  cases h 0
  cases h 1
  cases h 2
  cases h 3
  cases h 4
  rfl

namespace Machine

variable {s t u : State} {k : Fin 5}

/-- The bytes `got` are in the leading reply slots, in order, with their flags, and the other slots hold no data
(42_dispatcher.md R174, 10_state.md R24). -/
def SlotsHold (c : Cfe) (got : List Byte) : Prop :=
  c.rxb.toList = got ++ List.replicate (5 - got.length) 0 ∧
  c.rxv.toList = List.replicate got.length true ++ List.replicate (5 - got.length) false

theorem slotsHold_nil {c : Cfe} (hb : c.rxb = Slots.fill 0) (hv : c.rxv = Slots.fill false) : SlotsHold c [] := by
  rw [SlotsHold, hb, hv]
  exact ⟨rfl, rfl⟩

theorem slotsHold_of_slotsFilled_zero {c : Cfe} (h : SlotsFilled c 0) : SlotsHold c [] := by
  have hv : ∀ j, c.rxv.get j = false := fun j => by simpa using (h j).1
  exact slotsHold_nil (Slots.eq_fill fun j => (h j).2 (hv j)) (Slots.eq_fill hv)

/-- A byte for slot `k`, the first without data, is the next of the bytes held (42_dispatcher.md R167). -/
theorem SlotsHold.takeByte {got : List Byte} (h : SlotsHold s.cfe got) (hk : k.val = got.length) (b : Byte) :
    SlotsHold (s.takeByte k b).cfe (got ++ [b]) := by
  obtain ⟨hb, hv⟩ := h
  have hlt : got.length < 5 := hk ▸ k.isLt
  constructor
  · rw [takeByte_cfe, Slots.toList_set, hb, hk, set_length_padded hlt]
  · have hset := set_length_padded (l := List.replicate got.length true) (n := 5) (by simpa using hlt) true false
    rw [List.length_replicate, ← List.replicate_succ'] at hset
    rw [takeByte_cfe, Slots.toList_set, hv, hk, hset]
    simp

/-! The bytes that leave the queue -/

theorem poppedBytes_step (hr : s.inputs.rst = false) (hp : s.cfe.phase = .rx k) (h : step s = .next t) (n : Nat) :
    poppedBytes (n + 1) s = s.rxq.take 1 ++ poppedBytes n t := by
  rw [poppedBytes, h, rxPopPort_of_rx hr hp]
  cases s.rxq <;> rfl

theorem inReply_step {n : Nat} (h : InReply (n + 1) s) (hs : step s = .next t) :
    (∃ k, s.cfe.phase = .rx k) ∧ InReply n t := by
  rw [InReply, hs] at h
  exact h

/-- How far a reply phase of length `len` is when the bytes `got` have left the queue: it waits for the next slot, or it is
over, with TO telling whether a byte is missing (42_dispatcher.md R174). -/
structure ReplyProgress (len : BitVec 3) (c : Cfe) (got : List Byte) : Prop where
  curLen : c.curLen = len
  slots : SlotsHold c got
  phase : (∃ k, c.phase = .rx k ∧ k.val = got.length ∧ got.length < len.toNat ∧ c.statusTo = false) ∨
    (c.phase = .idle ∧ got.length ≤ len.toNat ∧ (c.statusTo = true ↔ got.length < len.toNat))

theorem ReplyProgress.of_rx {len : BitVec 3} {c : Cfe} {got : List Byte} (h : ReplyProgress len c got)
    (hp : c.phase = .rx k) : k.val = got.length ∧ got.length < len.toNat ∧ c.statusTo = false := by
  obtain ⟨j, hj, hrest⟩ | ⟨hidle, -⟩ := h.phase
  · cases hp.symm.trans hj
    exact hrest
  · cases hp.symm.trans hidle

theorem ReplyProgress.rxStep {len : BitVec 3} {got : List Byte} {p : Params} (h : ReplyProgress len s.cfe got)
    (hp : s.cfe.phase = .rx k) (hx : rxStep p k s = .next u) : ReplyProgress len u.cfe (got ++ s.rxq.take 1) := by
  obtain ⟨hk, hlt, hto⟩ := h.of_rx hp
  obtain ⟨b, q, hq, hlast, h1⟩ | ⟨b, q, j, hq, hnext, hj, h1⟩ | ⟨-, -, -, h1⟩ | ⟨hq, -, -, h1⟩ | ⟨hq, -, -, h1⟩ |
    ⟨hq, -, h1⟩ := rxStep_cases p k s <;> rw [h1] at hx <;> cases hx <;> rw [hq]
  · rw [h.curLen] at hlast
    rw [finish_eq]
    have hfull : (got ++ [b]).length = len.toNat := by rw [List.length_append, ← hlast, hk]; rfl
    have hslots := h.slots.takeByte hk b
    exact ⟨h.curLen, hslots, .inr ⟨rfl, hfull.le, by simp [hto, hfull]⟩⟩
  · rw [h.curLen] at hnext
    have hj : j.val = (got ++ [b]).length := by rw [hj, hk, List.length_append]; rfl
    have hmore : (got ++ [b]).length < len.toNat := by omega
    exact ⟨h.curLen, h.slots.takeByte hk b, .inl ⟨j, rfl, hj, hmore, hto⟩⟩
  · rw [finish_eq, List.take_nil, List.append_nil]
    exact ⟨h.curLen, h.slots, .inr ⟨rfl, by omega, by simp [hlt]⟩⟩
  · rw [List.take_nil, List.append_nil]
    exact ⟨h.curLen, h.slots, .inl ⟨k, hp, hk, hlt, hto⟩⟩
  · rw [List.take_nil, List.append_nil]
    exact h

theorem ReplyProgress.run {len : BitVec 3} {got : List Byte} {n : Nat} (h : ReplyProgress len s.cfe got)
    (hr : s.NoReset n) (hin : InReply n s) (ht : run n s = .next t) :
    ReplyProgress len t.cfe (got ++ poppedBytes n s) := by
  induction n generalizing s got with
  | zero =>
    cases ht
    simpa [poppedBytes] using h
  | succ n ih =>
    obtain ⟨u, hs, hu⟩ := run_succ_inv ht
    obtain ⟨⟨k, hp⟩, hin⟩ := inReply_step hin hs
    obtain ⟨hrst, hr⟩ := noReset_step hs hr
    obtain ⟨v, hx, rfl⟩ := onNext_eq_next.1 ((step_rx hrst hp).symm.trans hs)
    rw [poppedBytes_step hrst hp hs, ← List.append_assoc]
    have hv : ReplyProgress len v.cfe (got ++ s.rxq.take 1) := h.rxStep hp hx
    exact ih (s := v.endCycle Config.params) hv hr hin hu

/-- What the invariant says of slot `k` while the reply phase waits for it (10_state.md R24, R28). -/
theorem Inv.of_rx (h : Inv s) (hp : s.cfe.phase = .rx k) : k.val < s.cfe.curLen.toNat ∧ SlotsFilled s.cfe k.val := by
  have hf := h.inFlight
  rw [CommandInFlight, hp] at hf
  exact hf.2

/-- Settles O41: a reply phase starts with no byte taken, and each of its cycles keeps account of the bytes. -/
theorem replyPhaseFillsSlotsInQueueOrder : Obligations.ReplyPhaseFillsSlotsInQueueOrder := by
  intro s t n hinv hp hr hin ht popped m
  obtain ⟨hlen, hfilled⟩ := hinv.of_rx hp
  have h0 : ReplyProgress s.cfe.curLen s.cfe [] :=
    ⟨rfl, slotsHold_of_slotsFilled_zero hfilled, .inl ⟨0, hp, rfl, hlen, hinv.timeoutEnds (busy_of_rx hp)⟩⟩
  have h : ReplyProgress s.cfe.curLen t.cfe popped := h0.run hr hin ht
  obtain ⟨hb, hv⟩ := h.slots
  refine ⟨?_, hb, hv, fun k hk => ?_, fun hleft => ?_⟩
  · obtain ⟨-, -, -, hlt, -⟩ | ⟨-, hle, -⟩ := h.phase
    · exact hlt.le
    · exact hle
  · obtain ⟨hk, -, hto⟩ := h.of_rx hk
    exact ⟨hk, hto⟩
  · obtain ⟨k, hk, -⟩ | ⟨hidle, -, hto⟩ := h.phase
    · exact absurd hk (hleft k)
    · exact ⟨hidle, hto⟩

end Machine

end Sys2Proof
end

section
/-! A reply that is queued takes one cycle a byte, and with it the commands with a reply, start to end (42_dispatcher.md R172,
R173, 70_reset_and_hazards.md R251). -/

namespace Sys2Proof.Machine

variable {s t u : State} {k : Fin 5}

/-- A cycle of the reply phase in which nothing arrives pops the queue and sends nothing (42_dispatcher.md R167). -/
theorem step_rx_transport (hr : s.inputs.rst = false) (hp : s.cfe.phase = .rx k)
    (hcap : s.rxq.length ≤ Config.params.rxqDepth) (ha : s.inputs.arrivals = []) (h : step s = .next t) :
    t.rxq = s.rxq.tail ∧ t.txlog = s.txlog := by
  obtain ⟨u, hx, rfl⟩ := onNext_eq_next.1 ((step_rx hr hp).symm.trans h)
  obtain ⟨hlog, hq, hs, hc⟩ := rxStep_transport hx
  have hfits : (s.rxq.tail ++ []).length ≤ Config.params.rxqDepth := by
    rw [List.append_nil, List.length_tail]
    omega
  refine ⟨?_, hlog⟩
  rw [endCycle_rxq, hq, inputs_congr hs hc, ha, enqueue_of_fits hfits, List.append_nil]

/-- A reply phase with its last `n + 1` bytes queued takes one cycle a byte (70_reset_and_hazards.md R251). -/
theorem run_queued_reply {n : Nat} {got : List Byte} (hp : s.cfe.phase = .rx k) (hk : k.val = got.length)
    (hslots : SlotsHold s.cfe got) (hlen : k.val + n + 1 = s.cfe.curLen.toNat) (hle : s.cfe.curLen.toNat ≤ 5)
    (hq : n + 1 ≤ s.rxq.length) (hcap : s.rxq.length ≤ Config.params.rxqDepth) (hr : s.NoReset (n + 1))
    (ha : s.NoArrival (n + 1)) :
    ∃ t : State, run (n + 1) s = .next t ∧ t.rxq = s.rxq.drop (n + 1) ∧ t.txlog = s.txlog ∧
      SlotsHold t.cfe (got ++ s.rxq.take (n + 1)) ∧
      ∃ r v, t.cfe = { s.cfe with
          rxb := t.cfe.rxb, rxv := t.cfe.rxv, tmr := 0, phase := .idle, res := r, resv := v } ∧
        ((r = s.cfe.res ∧ v = s.cfe.resv) ∨ s.cfe.curOp = .sbc) := by
  induction n generalizing s k got with
  | zero =>
    obtain ⟨b, q, hbq⟩ : ∃ b q, s.rxq = b :: q := List.exists_cons_of_length_pos hq
    have hrst := rst_of_noReset hr
    have hs := step_rx_last hrst hp hbq hlen
    obtain ⟨htq, htlog⟩ := step_rx_transport hrst hp hcap (arrivals_of_noArrival ha) hs
    obtain ⟨r, v, hc, hw⟩ := finish_writes (s.takeByte k b) (some b)
    refine ⟨_, run_succ hs 0, by rw [htq, hbq]; rfl, htlog, ?_, r, v, ?_, hw⟩
    · rw [endCycle_cfe, hc, hbq]
      exact hslots.takeByte hk b
    · rw [endCycle_cfe, hc]
      rfl
  | succ n ih =>
    obtain ⟨b, q, hbq⟩ : ∃ b q, s.rxq = b :: q := List.exists_cons_of_length_pos (by omega)
    have hrst := rst_of_noReset hr
    have hj : (⟨k.val + 1, by omega⟩ : Fin 5).val = k.val + 1 := rfl
    obtain ⟨u, hs, hcu⟩ : ∃ u : State, step s = .next u ∧
        u.cfe = ((s.takeByte k b).setPhase (.rx ⟨k.val + 1, by omega⟩)).cfe :=
      ⟨_, step_rx_next hrst hp hbq hj (by omega), rfl⟩
    obtain ⟨ha0, ha1⟩ := noArrival_step hs ha
    obtain ⟨huq, hulog⟩ := step_rx_transport hrst hp hcap ha0 hs
    have htail : u.rxq = q := by rw [huq, hbq]; rfl
    have hulen : u.cfe.curLen = s.cfe.curLen := by rw [hcu]; rfl
    have hqlen : s.rxq.length = q.length + 1 := by rw [hbq]; rfl
    obtain ⟨t, ht, htq, htlog, hslots, r, v, hc, hw⟩ := ih (s := u) (got := got ++ [b]) (by rw [hcu]; rfl)
      (by rw [hj, hk, List.length_append]; rfl) (hcu ▸ hslots.takeByte hk b) (by rw [hulen]; omega) (by rwa [hulen])
      (by rw [htail]; omega) (by rw [htail]; omega) (noReset_step hs hr).2 ha1
    rw [htail] at htq hslots
    rw [hbq]
    refine ⟨t, (run_succ hs _).trans ht, htq, htlog.trans hulog, by simpa using hslots, r, v, ?_, ?_⟩
    · rw [hcu] at hc
      exact hc
    · rw [hcu] at hw
      exact hw

/-! The commands with a reply -/

/-- Settles O44: the accept cycle, the five cycles of the frame, and then one cycle for each byte of the queued reply; with
length 0 the frame's last byte ends the command. -/
theorem transactSendsTheFrameAndCollectsTheReply : Obligations.TransactSendsTheFrameAndCollectsTheReply := by
  intro s len n reply hlen hn ha hr hready hreply hle h5 hquiet
  have hl : legalLen len = true := legalLen_iff.2 hlen
  have hcap := params_lawful.2.2
  obtain ⟨v, hv, hc, hlog, hq⟩ := run_accepted_frame (i := .transact len) hl ha (exec_transact hl s) rfl rfl
    (noReset_mono hr (by omega)) hready
  have hvq : v.rxq = reply := hreply ▸ hq (fun j hj => hquiet j (by omega) (by omega)) (by rw [hreply]; exact h5)
  rw [frameSent_of_ne_send (by simp [State.acceptSend])] at hc
  have hslots : SlotsHold v.cfe [] := by rw [hc]; exact slotsHold_nil rfl rfl
  have hcl : (curLenOf len).toNat = n := (toNat_curLenOf hl).trans hn.symm
  have hvlen : v.cfe.curLen.toNat = n := by rw [hc, ← hcl]; rfl
  have harr : v.NoArrival n := fun j hj => inputsAt_run hv j ▸ hquiet (6 + j) (by omega) (by omega)
  cases n with
  | zero =>
    have hstart : replyStart (curLenOf len) = .idle := if_pos (BitVec.eq_of_toNat_eq hcl)
    refine ⟨v, hv, hlog, hvq, hslots.1, hslots.2, ?_⟩
    rw [hc, ← hstart]
    rfl
  | succ m =>
    have hne : curLenOf len ≠ 0 := fun h0 => by rw [h0] at hcl; cases hcl
    have hp : v.cfe.phase = .rx 0 := by rw [hc]; exact replyStart_of_ne hne
    obtain ⟨t, ht, htq, htlog, hts, r, w, htc, hw⟩ := run_queued_reply hp rfl hslots
      (by rw [hvlen]; exact congrArg (· + 1) (Nat.zero_add m)) (by omega) (by rwa [hvq]) (by rw [hvq]; omega)
      (noReset_run hv hr) harr
    obtain ⟨rfl, rfl⟩ := hw.resolve_right (by rw [hc]; simp [State.acceptSend])
    rw [hvq] at htq hts
    have hlen1 : (reply.take (m + 1)).length = m + 1 := List.length_take_of_le hle
    rw [List.nil_append, SlotsHold, hlen1] at hts
    refine ⟨t, (run_add hv _).trans ht, htlog.trans hlog, htq, hts.1, hts.2, ?_⟩
    rw [hc] at htc
    exact htc

/-- Settles O45: the accept cycle, the five cycles of the frame, and the cycle that takes the reply byte. -/
theorem singleByteCommandReturnsItsReply : Obligations.SingleByteCommandReturnsItsReply := by
  intro s opc b ha hr hready hreply hquiet
  obtain ⟨v, hv, hc, hlog, hq⟩ := run_accepted_frame (i := .singleByteCmd opc) rfl ha rfl rfl rfl
    (noReset_mono hr (by omega)) hready
  have hvq : v.rxq = [b] := hreply ▸ hq (fun j hj => hquiet j (by omega) (by omega)) (by rw [hreply]; simp)
  have hin : v.inputs = s.inputsAt 6 := by rw [← inputsAt_zero, inputsAt_run hv]
  have hrst : v.inputs.rst = false := hin ▸ hr 6 (by omega)
  have harr : v.inputs.arrivals = [] := hin ▸ hquiet 6 (by omega) (by omega)
  have hp : v.cfe.phase = .rx 0 := by rw [hc]; rfl
  have hs := step_rx_last hrst hp hvq (by rw [hc]; rfl)
  obtain ⟨htq, htlog⟩ := step_rx_transport hrst hp (by rw [hvq]; exact le_trans (by simp) params_lawful.2.2) harr hs
  refine ⟨_, run_step hv hs, htlog.trans hlog, by rw [htq, hvq]; rfl, ?_⟩
  rw [endCycle_cfe, finish_eq]
  simp only [loadRes_cfe, setPhase_cfe, takeByte_cfe, hc]
  rfl

end Sys2Proof.Machine
end

section
/-! Waiting and ending: how long a slot waits for its byte, and why every command ends (42_dispatcher.md R168, R175, R180). -/

namespace Sys2Proof.Machine

variable {s t u : State} {k : Fin 5}

/-! Waiting for a byte -/

/-- A slot to which no byte comes counts the ticks, as long as they stay below the ceiling (42_dispatcher.md R168). -/
theorem run_rx_wait {n c : Nat} (hp : s.cfe.phase = .rx k) (hq : s.rxq = []) (hr : s.NoReset n) (ha : s.NoArrival n)
    (hc : s.countInputs (·.tick) 0 n = c) (hlt : s.cfe.tmr + c < Config.params.tTimeout) :
    ∃ t : State, run n s = .next t ∧ t.cfe = { s.cfe with tmr := s.cfe.tmr + c } ∧ t.rxq = [] := by
  induction n generalizing s c with
  | zero =>
    subst hc
    exact ⟨s, rfl, rfl, hq⟩
  | succ n ih =>
    have hrst := rst_of_noReset hr
    have harr := arrivals_of_noArrival ha
    cases htick : s.inputs.tick with
    | false =>
      have hs := step_rx_quiet hrst hp hq htick
      obtain ⟨t, ht, htc, htq⟩ := ih (s := s.endCycle Config.params) (c := c) hp (endCycle_rxq_of_nil hq harr)
        (noReset_step hs hr).2 (noArrival_step hs ha).2 (by simpa [countInputs_step hs, htick] using hc) hlt
      exact ⟨t, (run_succ hs n).trans ht, htc, htq⟩
    | true =>
      have hpos : 0 < c := by
        rw [← hc, countInputs_step (step_rx_wait hrst hp hq), htick, if_pos rfl]
        omega
      obtain ⟨c, rfl⟩ := Nat.exists_eq_succ_of_ne_zero hpos.ne'
      have hs := step_rx_tick hrst hp hq htick (by omega)
      rw [countInputs_step hs, htick, if_pos rfl, Nat.succ_eq_one_add] at hc
      obtain ⟨t, ht, htc, htq⟩ := ih (s := (s.setTmr (s.cfe.tmr + 1)).endCycle Config.params) hp
        (endCycle_rxq_of_nil hq harr) (noReset_step hs hr).2 (noArrival_step hs ha).2 (Nat.add_left_cancel hc)
        (by dsimp only [endCycle_cfe, setTmr_cfe]; omega)
      have htmr : s.cfe.tmr + 1 + c = s.cfe.tmr + (c + 1) := by omega
      exact ⟨t, (run_succ hs n).trans ht, htc.trans (by rw [← htmr]; rfl), htq⟩

/-- Settles O42: after the cycles of waiting the timer holds the ticks that came, and the next tick reaches the ceiling. -/
theorem slotTimesOutAtTheCeilingthTick : Obligations.SlotTimesOutAtTheCeilingthTick := by
  intro s k n hp h0 hq hr ha ticks hlt
  obtain ⟨t, ht, hc, htq⟩ := run_rx_wait hp hq (noReset_mono hr (by omega)) ha rfl (by rw [h0, Nat.zero_add]; exact hlt)
  rw [h0, Nat.zero_add] at hc
  refine ⟨⟨t, ht, hc, htq⟩, fun htick he => ?_⟩
  have hin : t.inputs = s.inputsAt n := by rw [← inputsAt_zero, inputsAt_run ht, Nat.add_zero]
  have hs := step_rx_timeout (k := k) (hin ▸ hr n (by omega)) (by rw [hc]; exact hp) htq (hin ▸ htick)
    (by rw [hc]; exact he)
  refine ⟨_, run_step ht hs, ?_⟩
  rw [endCycle_cfe, finish_eq]
  simp [hc]

/-! Every command ends -/

/-- The machine is IDLE after at most `n` cycles. -/
def IdleWithin (n : Nat) (s : State) : Prop := ∃ j ≤ n, ∃ t : State, run j s = .next t ∧ t.cfe.phase = .idle

theorem idleWithin_of_idle {n : Nat} (hp : s.cfe.phase = .idle) : IdleWithin n s := ⟨0, Nat.zero_le n, s, rfl, hp⟩

theorem idleWithin_step {n : Nat} (hs : step s = .next t) (h : IdleWithin n t) : IdleWithin (n + 1) s := by
  obtain ⟨j, hj, u, hu, hp⟩ := h
  exact ⟨j + 1, by omega, u, (run_succ hs j).trans hu, hp⟩

/-- A reply phase that reaches slot 4 is one of length 5 (10_state.md R20, R28). -/
theorem toNat_of_four_lt {len : BitVec 3} (h : LegalCurLen len) (h4 : 4 < len.toNat) : len.toNat = 5 := by
  obtain rfl | rfl | rfl | rfl := h
  · exact absurd h4 (by decide)
  · exact absurd h4 (by decide)
  · exact absurd h4 (by decide)
  · rfl

/-- One cycle of the reply phase, for an invariant state: the phase ends, or a byte is taken and the next slot starts with a
fresh timer, or the slot goes on waiting with the tick of the cycle counted (42_dispatcher.md R167, R168). -/
theorem step_rx_progress (hinv : Inv s) (hr : s.inputs.rst = false) (hp : s.cfe.phase = .rx k) :
    ∃ t : State, step s = .next t ∧
      (t.cfe.phase = .idle ∨
       (∃ j : Fin 5, t.cfe.phase = .rx j ∧ j.val = k.val + 1 ∧ t.cfe.tmr = 0) ∨
       (t.cfe.phase = .rx k ∧ t.cfe.tmr = s.cfe.tmr + if s.inputs.tick then 1 else 0)) := by
  obtain ⟨hk, -⟩ := hinv.of_rx hp
  rw [step_rx hr hp]
  obtain ⟨b, q, -, -, h⟩ | ⟨b, q, j, -, -, hj, h⟩ | ⟨-, hne, rfl, -⟩ | ⟨-, -, -, h⟩ | ⟨-, htick, -, h⟩ | ⟨-, htick, h⟩ :=
    rxStep_cases Config.params k s
  case inr.inr.inl => exact absurd (toNat_of_four_lt hinv.lenLegal hk).symm hne
  all_goals refine ⟨_, by rw [h, onNext_next], ?_⟩
  · exact .inl (by rw [finish_eq]; rfl)
  · exact .inr (.inl ⟨j, rfl, hj, rfl⟩)
  · exact .inl (by rw [finish_eq]; rfl)
  · exact .inr (.inr ⟨hp, by rw [htick, if_pos rfl, ← countTick_of_lt hinv.timer]; rfl⟩)
  · exact .inr (.inr ⟨hp, by rw [htick]; rfl⟩)

/-- In the reply phase `5 * T_TIMEOUT` ticks, less those that the slots so far stand for, end the command (42_dispatcher.md
R180). -/
theorem idleWithin_of_ticks {n : Nat} (hinv : Inv s) (hp : s.cfe.phase = .rx k) (hr : s.NoReset n)
    (hticks : 5 * Config.params.tTimeout ≤ k.val * Config.params.tTimeout + s.cfe.tmr + s.countInputs (·.tick) 0 n) :
    IdleWithin n s := by
  have htmr := hinv.timer
  induction n generalizing s k with
  | zero =>
    have hk : (k.val + 1) * Config.params.tTimeout ≤ 5 * Config.params.tTimeout := Nat.mul_le_mul_right _ (by omega)
    rw [countInputs_zero, Nat.add_zero] at hticks
    rw [Nat.succ_mul] at hk
    omega
  | succ n ih =>
    have hrst := rst_of_noReset hr
    obtain ⟨t, hs, hcases⟩ := step_rx_progress hinv hrst hp
    have hinvt := everyStepKeepsTheInvariant s t hinv hs
    have hrt := (noReset_step hs hr).2
    rw [countInputs_step hs] at hticks
    refine idleWithin_step hs ?_
    obtain hidle | ⟨j, hpt, hj, h0⟩ | ⟨hpt, htick⟩ := hcases
    · exact idleWithin_of_idle hidle
    · refine ih hinvt hpt hrt ?_ hinvt.timer
      rw [hj, Nat.succ_mul k.val]
      split at hticks <;> omega
    · refine ih hinvt hpt hrt ?_ hinvt.timer
      rw [htick]
      omega

/-- One cycle of the transmit phase: the command ends, or its reply phase starts, or the phase goes on, one byte further if
the cycle was ready (42_dispatcher.md R165). -/
theorem step_tx_progress {i : Fin 5} (hr : s.inputs.rst = false) (hp : s.cfe.phase = .tx i) :
    ∃ t : State, step s = .next t ∧
      (t.cfe.phase = .idle ∨ t.cfe.phase = .rx 0 ∨
       ∃ j : Fin 5, t.cfe.phase = .tx j ∧ j.val = i.val + if s.inputs.txReady then 1 else 0) := by
  refine ⟨_, step_tx hr hp, ?_⟩
  rw [endCycle_cfe]
  obtain ⟨hready, h⟩ | ⟨hready, j, hj, h⟩ | ⟨-, -, -, h⟩ | ⟨-, -, -, h⟩ := txStep_cases s i <;> rw [h]
  · exact .inr (.inr ⟨i, hp, by rw [hready]; rfl⟩)
  · exact .inr (.inr ⟨j, rfl, by rw [hj, hready]; rfl⟩)
  · exact .inl rfl
  · by_cases hlen : s.cfe.curLen = 0
    · exact .inl (if_pos hlen)
    · exact .inr (.inl (if_neg hlen))

/-- In the transmit phase the remaining frame bytes need as many ready cycles; the ticks after them end the reply phase
(42_dispatcher.md R180). -/
theorem idleWithin_of_readiness_and_ticks {i : Fin 5} {n m : Nat} (hinv : Inv s) (hp : s.cfe.phase = .tx i)
    (hr : s.NoReset (n + m)) (hready : 5 ≤ i.val + s.countInputs (·.txReady) 0 n)
    (hticks : 5 * Config.params.tTimeout ≤ s.countInputs (·.tick) n m) : IdleWithin (n + m) s := by
  induction n generalizing s i with
  | zero =>
    rw [countInputs_zero] at hready
    omega
  | succ n ih =>
    rw [Nat.add_right_comm] at hr ⊢
    have hrst := rst_of_noReset hr
    obtain ⟨t, hs, hcases⟩ := step_tx_progress hrst hp
    have hinvt := everyStepKeepsTheInvariant s t hinv hs
    have hrt := (noReset_step hs hr).2
    rw [countInputs_step hs] at hready
    rw [countInputs_step_from hs] at hticks
    refine idleWithin_step hs ?_
    obtain hidle | hpt | ⟨j, hpt, hj⟩ := hcases
    · exact idleWithin_of_idle hidle
    · refine idleWithin_of_ticks hinvt hpt hrt ?_
      rw [countInputs_add]
      omega
    · exact ih hinvt hpt hrt (by omega) hticks

/-- Settles O46: in the transmit phase readiness leads on to the reply phase, where the ticks of the whole rest of the run
count. -/
theorem commandEndsWithReadinessAndTicks : Obligations.CommandEndsWithReadinessAndTicks := by
  intro s n m hinv hb hr hready hticks
  cases hp : s.cfe.phase with
  | idle => exact idleWithin_of_idle hp
  | tx i => exact idleWithin_of_readiness_and_ticks hinv hp hr (by omega) hticks
  | rx k =>
    refine idleWithin_of_ticks hinv hp hr ?_
    rw [countInputs_add]
    omega

end Sys2Proof.Machine
end

section
/-! The two conditions (60_exceptions.md): acceptance rewrites both, and neither stops the machine. -/

namespace Sys2Proof.Machine

variable {s u : State} {cw : CommandWord}

/-- Performing a legal command clears both conditions (60_exceptions.md R211, R212). -/
theorem exec_clears_conditions {i : Instr} (hw : i.wellFormed = true) (hx : exec i s = .next u) :
    u.cfe.statusIll = false ∧ u.cfe.statusTo = false := by
  cases i with
  | readReply len => rw [exec_readReply hw] at hx; cases hx; exact ⟨rfl, rfl⟩
  | transact len => rw [exec_transact hw] at hx; cases hx; exact ⟨rfl, rfl⟩
  | _ => cases hx; exact ⟨rfl, rfl⟩

/-- Every word, legal or not, completes its cycle of acceptance: its command is performed, or ILL is recorded
(42_dispatcher.md R163, 60_exceptions.md R210). -/
theorem acceptWord_next (cw : CommandWord) (s : State) : ∃ u, acceptWord cw s = .next u := by
  unfold acceptWord
  cases decode cw with
  | ok i => exact exec_next i s
  | error e => exact ⟨_, rfl⟩

/-- What acceptance leaves in the two conditions: ILL is the word's verdict, TO is 0 (60_exceptions.md R211, R212). -/
theorem acceptWord_conditions (h : acceptWord cw s = .next u) :
    u.cfe.statusIll = !legal cw ∧ u.cfe.statusTo = false := by
  cases hl : legal cw with
  | true =>
    obtain ⟨i, hd⟩ := exists_decode_iff.2 hl
    rw [acceptWord, hd] at h
    exact exec_clears_conditions (encode_of_decode hd).2 h
  | false =>
    rw [acceptWord_of_not_legal hl] at h
    cases h
    exact ⟨rfl, rfl⟩

/-- Settles O9: acceptance completes with both conditions rewritten, and the end of the cycle touches no register. -/
theorem acceptedWordRewritesTheConditions : Obligations.AcceptedWordRewritesTheConditions := by
  intro s cw ha
  obtain ⟨u, hu⟩ := acceptWord_next cw s
  refine ⟨u.endCycle Config.params, by rw [step_accept ha, hu, onNext_next], ?_⟩
  rw [endCycle_cfe]
  exact acceptWord_conditions hu

/-- Settles O50: only the reply phase could stop, past slot 4, and there the invariant makes slot 4 the last one. -/
theorem machineNeverStops : Obligations.MachineNeverStops := by
  intro s hinv
  obtain ⟨-, h⟩ | ⟨cw, -, h⟩ | ⟨-, -, -, h⟩ | ⟨i, -, -, h⟩ | ⟨k, hr, hp, -⟩ := step_cases s
  · exact ⟨_, h⟩
  · obtain ⟨u, hu⟩ := acceptWord_next cw s
    exact ⟨_, by rw [h, hu, onNext_next]⟩
  · exact ⟨_, h⟩
  · exact ⟨_, h⟩
  · obtain ⟨t, ht, -⟩ := step_rx_progress hinv hr hp
    exact ⟨t, ht⟩

end Sys2Proof.Machine
end

section
/-! Reset and timing (70_reset_and_hazards.md): the cycle after a reset, and how long a queued reply takes. -/

namespace Sys2Proof.Machine

/-- Settles O43: the invariant starts the reply phase with no slot filled and within the capacity of queue and slots, and
every queued byte then takes its cycle. -/
theorem queuedReplyTakesOneCycleEachByte : Obligations.QueuedReplyTakesOneCycleEachByte := by
  intro s n hinv hp hn hle hr ha
  obtain ⟨hpos, hfilled⟩ := hinv.of_rx hp
  have h5 : s.cfe.curLen.toNat ≤ 5 := by
    by_contra hlt
    have hfive := toNat_of_four_lt hinv.lenLegal (by omega)
    omega
  obtain ⟨m, rfl⟩ : ∃ m, n = m + 1 := Nat.exists_eq_succ_of_ne_zero (hn ▸ hpos.ne')
  obtain ⟨t, ht, htq, htlog, hslots, r, v, hc, -⟩ := run_queued_reply hp rfl (slotsHold_of_slotsFilled_zero hfilled)
    (by rw [← hn]; exact congrArg (· + 1) (Nat.zero_add m)) h5 hle hinv.queue hr ha
  have hto := hinv.timeoutEnds (busy_of_rx hp)
  rw [List.nil_append, SlotsHold, List.length_take_of_le hle] at hslots
  obtain ⟨hb, hv⟩ := hslots
  exact ⟨t, ht, by rw [hc], by rw [hc]; exact hto, htq, htlog, by rw [hc], hb, hv⟩

/-- Settles O11: reset leaves the CFE IDLE, which decides the ports, acceptance, and the cycle without a word. -/
theorem cycleAfterResetIsReady : Obligations.CycleAfterResetIsReady := by
  intro s hr
  have hp : (s.resetCfe.endCycle Config.params).cfe.phase = .idle := rfl
  exact ⟨_, step_reset hr, hp, fun hlow =>
    ⟨cmdReady_iff.2 ⟨hlow, hp⟩, (ports_of_idle hp).1, fun hv => ⟨hlow, hp, hv, rfl⟩, step_idle hlow hp⟩⟩

end Sys2Proof.Machine
end
